-- ==== Sys2Proof/Word.lean ====
section
/-! DEFINITION. The bit-vector types of the block and the two named choices its
commands and registers carry (byte order, wire revision). -/

namespace Sys2Proof

/-- `u8` of 00_scope.md R8. -/
abbrev Byte := BitVec 8

/-- `u32` of 00_scope.md R8: a register word, a command word, a payload pattern. -/
abbrev Word := BitVec 32

/-- A 4-bit half of a byte: the index of the nibble table (40_crc.md R101). -/
abbrev Nibble := BitVec 4

/-- The E operand of PACK.W and UNPACK.W (30_encoding.md R70): 0 little-endian, 1 big-endian. -/
inductive ByteOrder where
  | little
  | big
  deriving DecidableEq, Repr

/-- The wire revision that CONFIG.REV selects (10_state.md R22, 41_codec.md R130). -/
inductive Revision where
  /-- REV = 0: 27 bytes, 6 payload elements, error-flags byte. -/
  | a
  /-- REV = 1: 31 bytes, 7 payload elements, CRC-8 byte. -/
  | b
  deriving DecidableEq, Repr

end Sys2Proof
end

