-- ==== Sys2Proof/Config.lean ====
section
/-! DEFINITION. What an instance of the block fixes (00_scope.md R5): the fixed
sizes, the parameters with the spec's defaults, and the constants with no body
for what the spec leaves open. -/

namespace Sys2Proof

/-- `FRAME_SIZE` of 00_scope.md R5. -/
abbrev frameSize : Nat := 32

/-- `PAYLOAD_REGS` of 00_scope.md R5. -/
abbrev payloadRegs : Nat := 7

/-- Window offset of FRAME[0] (10_state.md R35). -/
abbrev frameBase : Nat := 0xC0

/-- The parameters of an instance (00_scope.md R5, R6). Each may have any value; they are held in
State, which no step changes, so that a statement about every state holds for every parameter value. -/
structure Params where
  /-- `P_POLY`: bit i is the coefficient of x^i, the x^8 term implicit. -/
  poly : Byte
  /-- `P_INIT`: what Init returns. -/
  init : Byte
  /-- `P_XOROUT`: the final XOR of Finalize. -/
  xorOut : Byte
  /-- `P_REV_RESET`: CONFIG.REV after reset. -/
  revReset : Revision
  deriving DecidableEq, Repr

/-- The defaults of 00_scope.md R5 (92_eei_decisions.md D22, D19): the spec's own choice, not the
source's. DESIGN CHOICE (log 1): State.reset is the instance with these defaults. -/
def Params.defaults : Params :=
  { poly := 0x07#8, init := 0x00#8, xorOut := 0x00#8, revReset := .b }

/-- `P_BASE` (20_memory.md R50, left OPEN): the bus address of window offset 0. No body: nothing can be
proved about its value (log 10). -/
opaque Config.pBase : Nat

/-- FREE VALUE (93_implementation_defined.md U1, log 2): what PAYLOAD[k] holds after reset event
number `epoch`, before anything writes it. No body. -/
opaque Config.freePayload (epoch k : Nat) : Word

/-- FREE VALUE (93_implementation_defined.md U2, log 3): what the FRAME byte at window offset `addr` reads
as after reset event number `epoch`, before anything writes it. No body. -/
opaque Config.freeFrame (epoch addr : Nat) : Byte

end Sys2Proof
end

