-- ==== Sys2Proof/Syntax.lean ====
section
/-! DEFINITION. The commands of the block: one constructor per row of
spec/opcode_table.json (30_encoding.md R72). -/

namespace Sys2Proof

/-- A command. Counts, offsets and indices are naturals (30_encoding.md R71: they "add in unbounded
naturals"); the data byte of CRC.UPD8 is a byte. Which naturals a word can carry is
`Instr.wellFormed`. -/
inductive Instr where
  /-- NOP (40_crc.md R110). -/
  | nop
  /-- CRC.INIT (40_crc.md R111). -/
  | crcInit
  /-- CRC.UPD8 `<byte>` (40_crc.md R112). -/
  | crcUpd8 (d : Byte)
  /-- CRC.UPDF `<start>, <count>` (40_crc.md R113). -/
  | crcUpdf (start count : Nat)
  /-- CRC.FIN (40_crc.md R114). -/
  | crcFin
  /-- CRC.CALC `<start>, <count>` (40_crc.md R115). -/
  | crcCalc (start count : Nat)
  /-- ENCODE `<count>` (41_codec.md R134). -/
  | encode (count : Nat)
  /-- DECODE (41_codec.md R135). -/
  | decode
  /-- PACK.W `<k>, <off> [, le | be]` (42_packer.md R164). -/
  | packW (k off : Nat) (e : ByteOrder)
  /-- UNPACK.W `<k>, <off> [, le | be]` (42_packer.md R165). -/
  | unpackW (k off : Nat) (e : ByteOrder)
  deriving DecidableEq, Repr

end Sys2Proof
end

