-- ==== Sys2Proof/WellFormed.lean ====
section
/-! DEFINITION. Which commands a word can carry (30_encoding.md R70, R77). -/

namespace Sys2Proof

/-- An operand fits its 8-bit field. R77: one that does not "is an assembly error, not a truncation". -/
def fitsField (n : Nat) : Bool := decide (n < 256)

/-- Every operand of the command fits its field (30_encoding.md R77). The byte of CRC.UPD8 and the
byte order always fit. -/
def Instr.wellFormed : Instr → Bool
  | .nop => true
  | .crcInit => true
  | .crcUpd8 _ => true
  | .crcUpdf start count => fitsField start && fitsField count
  | .crcFin => true
  | .crcCalc start count => fitsField start && fitsField count
  | .encode count => fitsField count
  | .decode => true
  | .packW k off _ => fitsField k && fitsField off
  | .unpackW k off _ => fitsField k && fitsField off

end Sys2Proof
end

