-- ==== Sys2Proof/Decode.lean ====
section
/-! DEFINITION. The command word (30_encoding.md): its fields, the opcode map, the
decoder (total on every word, rejecting by name), and the encoder and assembler. -/

namespace Sys2Proof

/-- The fields of format `CW` (30_encoding.md R70). -/
structure CommandFields where
  opc : Byte
  a : Byte
  b : Byte
  e : BitVec 1
  rsv : BitVec 7
  deriving DecidableEq, Repr

/-- Why a word selects no command (30_encoding.md R73, R74). Every reason has the same effect,
ILLEGAL_COMMAND. -/
inductive DecodeReject where
  /-- OPC is outside the opcode map. -/
  | unassignedOpcode
  /-- RSV (bits 31:25) is not zero. -/
  | reservedBits
  /-- A, B or E is not zero in a command whose row marks it 0. -/
  | reservedOperand
  deriving DecidableEq, Repr

/-- The rows of the opcode map (30_encoding.md R72), without operands. -/
inductive Opcode where
  | nop | crcInit | crcUpd8 | crcUpdf | crcFin | crcCalc | encode | decode | packW | unpackW
  deriving DecidableEq, Repr

/-- Split a word into its fields (30_encoding.md R70, R71). -/
def fieldsOf (w : Word) : CommandFields where
  opc := w.extractLsb' 0 8
  a := w.extractLsb' 8 8
  b := w.extractLsb' 16 8
  e := w.extractLsb' 24 1
  rsv := w.extractLsb' 25 7

/-- Lay fields out as a word, RSV at the top and OPC at the bottom (30_encoding.md R70). -/
def wordOf (f : CommandFields) : Word := f.rsv ++ (f.e ++ (f.b ++ (f.a ++ f.opc)))

/-- The opcode map, read from the OPC column of 30_encoding.md R72. -/
def opcodeOfByte (opc : Byte) : Option Opcode :=
  match opc with
  | 0x00#8 => some .nop
  | 0x01#8 => some .crcInit
  | 0x02#8 => some .crcUpd8
  | 0x03#8 => some .crcUpdf
  | 0x04#8 => some .crcFin
  | 0x05#8 => some .crcCalc
  | 0x10#8 => some .encode
  | 0x11#8 => some .decode
  | 0x20#8 => some .packW
  | 0x21#8 => some .unpackW
  | _ => none

/-- The OPC column of 30_encoding.md R72, written for the encoder. -/
def byteOfOpcode : Opcode → Byte
  | .nop => 0x00#8
  | .crcInit => 0x01#8
  | .crcUpd8 => 0x02#8
  | .crcUpdf => 0x03#8
  | .crcFin => 0x04#8
  | .crcCalc => 0x05#8
  | .encode => 0x10#8
  | .decode => 0x11#8
  | .packW => 0x20#8
  | .unpackW => 0x21#8

/-- The row of 30_encoding.md R72 gives field A a meaning (it is not marked `0`). -/
def opcodeUsesA : Opcode → Bool
  | .crcUpd8 | .crcUpdf | .crcCalc | .encode | .packW | .unpackW => true
  | .nop | .crcInit | .crcFin | .decode => false

/-- The row of 30_encoding.md R72 gives field B a meaning. -/
def opcodeUsesB : Opcode → Bool
  | .crcUpdf | .crcCalc | .packW | .unpackW => true
  | .nop | .crcInit | .crcUpd8 | .crcFin | .encode | .decode => false

/-- The row of 30_encoding.md R72 gives bit E a meaning. -/
def opcodeUsesE : Opcode → Bool
  | .packW | .unpackW => true
  | .nop | .crcInit | .crcUpd8 | .crcUpdf | .crcFin | .crcCalc | .encode | .decode => false

/-- Bit E as a byte order (30_encoding.md R70). -/
def byteOrderOfBit (e : BitVec 1) : ByteOrder := if e = 1#1 then .big else .little

/-- A byte order as bit E (30_encoding.md R70). -/
def bitOfByteOrder : ByteOrder → BitVec 1
  | .little => 0#1
  | .big => 1#1

/-- A command of a given row, its operands zero-extended from the fields (30_encoding.md R71). -/
def buildInstr (op : Opcode) (f : CommandFields) : Instr :=
  match op with
  | .nop => .nop
  | .crcInit => .crcInit
  | .crcUpd8 => .crcUpd8 f.a
  | .crcUpdf => .crcUpdf f.a.toNat f.b.toNat
  | .crcFin => .crcFin
  | .crcCalc => .crcCalc f.a.toNat f.b.toNat
  | .encode => .encode f.a.toNat
  | .decode => .decode
  | .packW => .packW f.a.toNat f.b.toNat (byteOrderOfBit f.e)
  | .unpackW => .unpackW f.a.toNat f.b.toNat (byteOrderOfBit f.e)

/-- Decode the fields of a word (30_encoding.md R72 to R74). -/
def decodeFields (f : CommandFields) : Except DecodeReject Instr :=
  match opcodeOfByte f.opc with
  | none => .error .unassignedOpcode
  | some op =>
    if f.rsv ≠ 0#7 then .error .reservedBits
    else if (opcodeUsesA op = false ∧ f.a ≠ 0#8) ∨ (opcodeUsesB op = false ∧ f.b ≠ 0#8)
        ∨ (opcodeUsesE op = false ∧ f.e ≠ 0#1) then .error .reservedOperand
    else .ok (buildInstr op f)

/-- The decoder: total on every command word (30_encoding.md R72 to R76). -/
def decodeWord (w : Word) : Except DecodeReject Instr := decodeFields (fieldsOf w)

/-- The row of the opcode map a command belongs to. -/
def opcodeOf : Instr → Opcode
  | .nop => .nop
  | .crcInit => .crcInit
  | .crcUpd8 _ => .crcUpd8
  | .crcUpdf _ _ => .crcUpdf
  | .crcFin => .crcFin
  | .crcCalc _ _ => .crcCalc
  | .encode _ => .encode
  | .decode => .decode
  | .packW _ _ _ => .packW
  | .unpackW _ _ _ => .unpackW

/-- The fields a command is encoded into (30_encoding.md R70, R72). -/
def fieldsOfInstr (i : Instr) : CommandFields :=
  let opc := byteOfOpcode (opcodeOf i)
  match i with
  | .nop | .crcInit | .crcFin | .decode => { opc, a := 0, b := 0, e := 0, rsv := 0 }
  | .crcUpd8 d => { opc, a := d, b := 0, e := 0, rsv := 0 }
  | .encode count => { opc, a := BitVec.ofNat 8 count, b := 0, e := 0, rsv := 0 }
  | .crcUpdf start count | .crcCalc start count =>
    { opc, a := BitVec.ofNat 8 start, b := BitVec.ofNat 8 count, e := 0, rsv := 0 }
  | .packW k off e | .unpackW k off e =>
    { opc, a := BitVec.ofNat 8 k, b := BitVec.ofNat 8 off, e := bitOfByteOrder e, rsv := 0 }

/-- The word of a well-formed command (30_encoding.md R72). -/
def encode (i : Instr) : Word := wordOf (fieldsOfInstr i)

/-- Assemble a command: an operand that does not fit its field "is an assembly error, not a
truncation" (30_encoding.md R77). -/
def assemble (i : Instr) : Option Word := if i.wellFormed = true then some (encode i) else none

/-- What the decoder reads from an instruction whose bits are `w`, bit 0 the least significant
(a command is one 32-bit word, 30_encoding.md R70, so the table's numbering is the word's own). Bits
from `nbits` up are zero; an instruction of more than 32 bits is no command (log 14). -/
def decodeTableWord (nbits w : Nat) : Option Instr :=
  if nbits ≤ 32 then
    match decodeWord (BitVec.ofNat 32 (w % 2 ^ nbits)) with
    | .ok i => some i
    | .error _ => none
  else none

end Sys2Proof
end

