-- ==== Sys2Proof/Machine/State.lean ====
section
/-! DEFINITION. The state of the block (10_state.md R40), the host's accesses that drive
it (20_memory.md R50), how a step can stop, and the state after reset (70_reset_and_hazards.md R210). -/

namespace Sys2Proof.Machine

/-- STATUS.ERR (10_state.md R21, 60_exceptions.md R180). Values 4 to 15 "are never produced", so
they are left out of the type (93_implementation_defined.md U8, log 11). -/
inductive ErrCode where
  | ok
  | lengthMismatch
  | illegalCommand
  | rangeError
  deriving DecidableEq, Repr

/-- The size of a host access in bytes: 1, 2 or 4 (20_memory.md R50). -/
inductive AccessSize where
  | byte
  | half
  | word
  deriving DecidableEq, Repr

/-- What the outside world can do to the block: one access of the bus slave port at a byte offset of
the 256-byte window (20_memory.md R50), or the reset input (20_memory.md R51). There is no other
port (20_memory.md R52). -/
inductive HostEvent where
  /-- `MemRead(off, n)` (00_scope.md R10). -/
  | read (off : Byte) (size : AccessSize)
  /-- `MemWrite(off, n, v)`: the data is the low 8n bits of `v` (20_memory.md R50). -/
  | write (off : Byte) (size : AccessSize) (v : Word)
  /-- The reset input is asserted (70_reset_and_hazards.md R210). -/
  | reset
  deriving DecidableEq, Repr

/-- Why a step stops the run. Command errors are not here: they are STATUS codes (60_exceptions.md R189). -/
inductive Fault where
  /-- BusError (20_memory.md R57, 60_exceptions.md R186): raised by a host read or write that is
  misaligned, of an illegal size, at a reserved offset, or a write to a read-only register. Safe: the
  spec says a model treats it as a fault of the host program, and no state changes (log 7). -/
  | busError
  deriving DecidableEq, Repr

/-- Why a step has no meaning. -/
inductive Refusal where
  /-- Raised by exec's arm of a command that has no meaning yet. Safe: nothing follows. No arm
  raises it in this model. -/
  | notModelled (mnemonic : String)
  deriving DecidableEq, Repr

/-- The byte storage of the block, FRAME (10_state.md R35): pairs of a window offset and the byte
written there, offsets strictly rising. An offset not listed is *unwritten*
(70_reset_and_hazards.md R210). -/
abbrev Memory := List Host.Cell

/-- The architectural state (10_state.md R40), and four fields of the model's own: `epoch`, `pending`,
`reads`, and `params` in place of the constants PARAM and CRC_TABLE. -/
structure State where
  /-- CMD: the last word written (10_state.md R20). -/
  cmd : Word
  /-- STATUS.ERR (10_state.md R21). -/
  err : ErrCode
  /-- STATUS.CRCMIS (10_state.md R21). -/
  crcMis : Bool
  /-- CONFIG.REV (10_state.md R22). -/
  rev : Revision
  /-- LEN (10_state.md R23). -/
  len : Byte
  /-- TYPEID (10_state.md R24). -/
  typeId : Byte
  /-- CMDTYPE (10_state.md R25). -/
  cmdType : Byte
  /-- CHECK (10_state.md R26). -/
  check : Byte
  /-- CRC: the running register (10_state.md R27). -/
  crc : Byte
  /-- RESULT (10_state.md R28). -/
  result : Byte
  /-- CALC_CRC (10_state.md R29). -/
  calcCrc : Byte
  /-- EXP_LEN (10_state.md R30). -/
  expLen : Byte
  /-- ACT_LEN (10_state.md R31). -/
  actLen : Byte
  /-- PAYLOAD[0..6] (10_state.md R33). -/
  payload : Vector Word 7
  /-- FRAME[0..31] (10_state.md R35). -/
  frame : Memory
  /-- The constants of the instance: PARAM (10_state.md R32), CRC_TABLE (R34) by 40_crc.md R101. -/
  params : Params
  /-- MODEL'S OWN: how many reset events came before, so that each draws fresh free values (log 4). -/
  epoch : Nat
  /-- MODEL'S OWN: the host's accesses not yet performed, oldest first (log 5). -/
  pending : List HostEvent
  /-- MODEL'S OWN: the values the host's reads returned, oldest first (70_reset_and_hazards.md R216, log 8). -/
  reads : List Word
  deriving DecidableEq, Repr

/-- The block of parameters `p` right after its reset event number `epoch` (70_reset_and_hazards.md
R210). PAYLOAD holds free values, and no FRAME byte is written (log 2, log 3). -/
def State.resetWith (p : Params) (epoch : Nat) : State where
  cmd := 0x00000000#32
  err := .ok
  crcMis := false
  rev := p.revReset
  len := 0x00#8
  typeId := 0x00#8
  cmdType := 0x00#8
  check := 0x00#8
  crc := p.init
  result := p.init ^^^ p.xorOut
  calcCrc := 0x00#8
  expLen := 0x00#8
  actLen := 0x00#8
  payload := #v[Config.freePayload epoch 0, Config.freePayload epoch 1, Config.freePayload epoch 2,
    Config.freePayload epoch 3, Config.freePayload epoch 4, Config.freePayload epoch 5,
    Config.freePayload epoch 6]
  frame := []
  params := p
  epoch := epoch
  pending := []
  reads := []

/-- The machine right after reset (70_reset_and_hazards.md R210), with the default parameters
(00_scope.md R5, log 1), no access pending and none performed. -/
def State.reset : State := State.resetWith Params.defaults 0

end Sys2Proof.Machine
end

