-- ==== Sys2Proof/Machine/Ops.lean ====
section
/-! DEFINITION. The named operations over FRAME, PAYLOAD and the result registers; raising
a command error; the reset event. -/

namespace Sys2Proof.Machine

/-- The canonical form of the byte storage: offsets strictly rising, and each the offset of a FRAME
byte (10_state.md R35). A listed byte is never equal to what an unlisted offset reads as, because
an unlisted offset holds no written byte. -/
abbrev Memory.wf (m : Memory) : Prop :=
  m.Pairwise (fun x y => x.1 < y.1) ∧ ∀ c ∈ m, frameBase ≤ c.1 ∧ c.1 < frameBase + frameSize

/-- The byte written at an offset, or none when nothing has written it since reset. -/
def Memory.written : Memory → Nat → Option Byte
  | [], _ => none
  | (k, v) :: m, a => if a = k then some v else Memory.written m a

/-- What an unwritten offset reads as (70_reset_and_hazards.md R210): the free draw of this reset
epoch, one per byte (93_implementation_defined.md U2, log 3). -/
def Memory.unwritten (epoch a : Nat) : Byte := Config.freeFrame epoch a

/-- Read one byte. -/
def Memory.read (m : Memory) (epoch a : Nat) : Byte :=
  match Memory.written m a with
  | some v => v
  | none => Memory.unwritten epoch a

/-- Write one byte, keeping the offsets strictly rising. -/
def Memory.write : Memory → Nat → Byte → Memory
  | [], a, v => [(a, v)]
  | (k, u) :: m, a, v =>
    if a < k then (a, v) :: (k, u) :: m
    else if a = k then (a, v) :: m
    else (k, u) :: Memory.write m a v

/-- Write a sequence of bytes upward from an offset. -/
def Memory.writeList (m : Memory) (a : Nat) : List Byte → Memory
  | [] => m
  | v :: vs => Memory.writeList (Memory.write m a v) (a + 1) vs

/-- FRAME[i] (10_state.md R35). -/
def State.frameByte (s : State) (i : Nat) : Byte := Memory.read s.frame s.epoch (frameBase + i)

/-- The byte sequence FRAME[start .. start+count) (00_scope.md R9). -/
def State.frameBytes (s : State) (start count : Nat) : List Byte :=
  (List.range count).map fun j => s.frameByte (start + j)

/-- FRAME[start .. start+len(bs)) <- bs. -/
def State.writeFrame (s : State) (start : Nat) (bs : List Byte) : State :=
  { s with frame := Memory.writeList s.frame (frameBase + start) bs }

/-- PAYLOAD[k] <- v. -/
def State.writePayload (s : State) (k : Fin 7) (v : Word) : State :=
  { s with payload := s.payload.set k v }

/-- STATUS.ERR <- e (60_exceptions.md R181). -/
def State.setErr (s : State) (e : ErrCode) : State := { s with err := e }

/-- EXP_LEN <- exp, ACT_LEN <- act (10_state.md R30, R31). Counts of 0 to 255 fit; `act` is larger only
for a count no word can carry (log 6). -/
def State.recordLengths (s : State) (exp act : Nat) : State :=
  { s with expLen := BitVec.ofNat 8 exp, actLen := BitVec.ofNat 8 act }

/-- A condition that ends a command (60_exceptions.md R180). -/
inductive CommandError where
  | lengthMismatch (exp act : Nat)
  | illegalCommand
  | rangeError
  deriving DecidableEq, Repr

/-- `raise E(info)` (00_scope.md R11, 60_exceptions.md R182 to R184): the one shared way a command ends in
an error. It sets STATUS.ERR to the code of E, writes the registers that E's rule names, and
nothing else. There is no trap entry, so there is no return from one (60_exceptions.md R189, R190). -/
def State.raise (s : State) : CommandError → State
  | .lengthMismatch exp act => (s.recordLengths exp act).setErr .lengthMismatch
  | .illegalCommand => s.setErr .illegalCommand
  | .rangeError => s.setErr .rangeError

/-- The reset event (70_reset_and_hazards.md R210): every register takes its reset value, PAYLOAD and
FRAME become unwritten with fresh free values, and the constants stay. The host's own lists are no
state of the block and stay too (log 9). -/
def State.resetEvent (s : State) : State :=
  { State.resetWith s.params (s.epoch + 1) with pending := s.pending, reads := s.reads }

/-- The value of a read joins the values the host's reads returned (70_reset_and_hazards.md R216). -/
def State.logRead (s : State) (v : Word) : State := { s with reads := s.reads ++ [v] }

/-- The bus address of a window offset (20_memory.md R50; 30_encoding.md R78 "Offsets are relative to
`P_BASE`"). -/
def busAddress (off : Byte) : Nat := Config.pBase + off.toNat

/-- The window offset of a bus address, or none where the address is outside the block's 256-byte
window (20_memory.md R53). -/
def windowOffset (addr : Nat) : Option Byte :=
  if Config.pBase ≤ addr ∧ addr < Config.pBase + 256 then some (BitVec.ofNat 8 (addr - Config.pBase))
  else none

end Sys2Proof.Machine
end

