-- ==== Sys2Proof/Machine/Operands.lean ====
section
/-! DEFINITION. The operand forms of the commands: the FRAME range of CRC.UPDF and CRC.CALC, the
payload index and offset of the packer, the counts of the codec. Every operand is an immediate
(30_encoding.md R71). -/

namespace Sys2Proof.Machine

/-- `A + B > FRAME_SIZE` does not hold (40_crc.md R113, R115), in unbounded naturals. -/
abbrev frameRangeOk (start count : Nat) : Prop := start + count ≤ frameSize

/-- `A > 6 or B + 4 > FRAME_SIZE` does not hold (42_packer.md R164, R165). -/
abbrev packOperandsOk (k off : Nat) : Prop := k < payloadRegs ∧ off + 4 ≤ frameSize

/-- N of `geometry(REV)` (41_codec.md R130). -/
def payloadCount : Revision → Nat
  | .a => 6
  | .b => 7

/-- L of `geometry(REV)` (41_codec.md R130). -/
def frameLength : Revision → Nat
  | .a => 27
  | .b => 31

/-- FRAME offset of payload element k (41_codec.md R133). -/
def payloadOffset (k : Nat) : Nat := 2 + 4 * k

/-- The size of an access in bytes (20_memory.md R50). -/
def AccessSize.bytes : AccessSize → Nat
  | .byte => 1
  | .half => 2
  | .word => 4

end Sys2Proof.Machine
end

