-- ==== Sys2Proof/Machine/Flags.lean ====
section
/-! DEFINITION. STATUS (10_state.md R21): the result codes, the ChecksumMismatch flag and the word a
host reads. -/

namespace Sys2Proof.Machine

/-- The code of STATUS.ERR (10_state.md R21, 60_exceptions.md R180). -/
def errBits : ErrCode → BitVec 4
  | .ok => 0#4
  | .lengthMismatch => 1#4
  | .illegalCommand => 2#4
  | .rangeError => 3#4

/-- STATUS as the host reads it: ERR in bits 3:0, CRCMIS in bit 4, the rest 0 (10_state.md R21). -/
def statusWord (s : State) : Word := (BitVec.ofBool s.crcMis ++ errBits s.err).setWidth 32

/-- STATUS.CRCMIS after a successful DECODE (41_codec.md R135): under revision B whether the
recomputed CRC differs from the received byte, under revision A 0. -/
def crcMisFlag (rev : Revision) (computed received : Byte) : Bool :=
  match rev with
  | .a => false
  | .b => decide (computed ≠ received)

/-- STATUS.CRCMIS <- v. Only DECODE writes it (10_state.md R21). -/
def State.setCrcMis (s : State) (v : Bool) : State := { s with crcMis := v }

/-- `STATUS.ERR <- 0`, the end of every command that completes (60_exceptions.md R181). -/
def State.succeed (s : State) : State := s.setErr .ok

end Sys2Proof.Machine
end

