-- ==== Sys2Proof/Machine/CrcEngine.lean ====
section
/-! DEFINITION. The CRC function (40_crc.md section 1), over any parameters. -/

namespace Sys2Proof.Machine

/-- `step` of 40_crc.md R101: one bit of the division by the generator of R100. -/
def crcStep (poly c : Byte) : Byte := if c.getLsbD 7 then (c <<< 1) ^^^ poly else c <<< 1

/-- `T[i]` of 40_crc.md R101: CRC_TABLE[i] (10_state.md R34). -/
def crcTable (poly : Byte) (i : Nibble) : Byte :=
  crcStep poly (crcStep poly (crcStep poly (crcStep poly (i.setWidth 8 <<< 4))))

/-- One of the two reduction steps of 40_crc.md R102: the table entry of the nibble `x & 0xF`, XOR the
register shifted by four. -/
def crcNibble (poly c x : Byte) : Byte := crcTable poly (x.setWidth 4) ^^^ (c <<< 4)

/-- `crc8_upd` of 40_crc.md R102: high nibble first. -/
def crc8Upd (poly c d : Byte) : Byte :=
  let c1 := crcNibble poly c ((c >>> 4) ^^^ (d >>> 4))
  crcNibble poly c1 ((c1 >>> 4) ^^^ d)

/-- `Update(c, s)` of 40_crc.md R104. -/
def crcUpdate (poly c : Byte) (bs : List Byte) : Byte := bs.foldl (crc8Upd poly) c

/-- `Finalize(c)` of 40_crc.md R105. -/
def crcFinalize (p : Params) (c : Byte) : Byte := c ^^^ p.xorOut

/-- `Calculate(s)` of 40_crc.md R106. -/
def crcCalculate (p : Params) (bs : List Byte) : Byte := crcFinalize p (crcUpdate p.poly p.init bs)

end Sys2Proof.Machine
end

