-- ==== Sys2Proof/Machine/Serializer.lean ====
section
/-! DEFINITION. The serializer primitives (42_packer.md section 1) and the little-endian view of a
byte sequence that a host access uses (20_memory.md R59). -/

namespace Sys2Proof.Machine

/-- `ser8` (42_packer.md R160). -/
def ser8 (v : Byte) : Byte := v

/-- Byte j of a word, bits 8j+7 : 8j. -/
def wordByte (v : Word) (j : Nat) : Byte := v.extractLsb' (8 * j) 8

/-- `ser32` (42_packer.md R161). -/
def ser32 (v : Word) : ByteOrder → List Byte
  | .little => [wordByte v 0, wordByte v 1, wordByte v 2, wordByte v 3]
  | .big => [wordByte v 3, wordByte v 2, wordByte v 1, wordByte v 0]

/-- `deser32` of four bytes (42_packer.md R162). -/
def deser32 (b0 b1 b2 b3 : Byte) : ByteOrder → Word
  | .little => b3 ++ (b2 ++ (b1 ++ b0))
  | .big => b0 ++ (b1 ++ (b2 ++ b3))

/-- `deser32(FRAME[off .. off+4), e)`. -/
def State.frameWord (s : State) (off : Nat) (e : ByteOrder) : Word :=
  deser32 (s.frameByte off) (s.frameByte (off + 1)) (s.frameByte (off + 2)) (s.frameByte (off + 3)) e

/-- The sum of `zext_32(b_j) << (8*j)` (20_memory.md R59). -/
def leWord : List Byte → Word
  | [] => 0#32
  | b :: bs => b.setWidth 32 ||| (leWord bs <<< 8)

/-- The bytes `v[8*j+7 : 8*j]` for j in 0..n-1 (20_memory.md R59). -/
def leBytes (n : Nat) (v : Word) : List Byte := (List.range n).map (wordByte v)

end Sys2Proof.Machine
end

