-- ==== Sys2Proof/Machine/Bus.lean ====
section
/-! DEFINITION. The register map (10_state.md section 1) and the host's reads and writes of it
(20_memory.md R50 to R59), but for the command that a CMD write issues (Machine/Access.lean). -/

namespace Sys2Proof.Machine

/-- The word registers of the map (10_state.md R20 to R34). -/
inductive Register where
  | cmd | status | config | len | typeId | cmdType | check | crc
  | result | calcCrc | expLen | actLen | param
  | payload (k : Fin 7)
  | crcTable (i : Nibble)
  deriving DecidableEq, Repr

/-- What an access reaches. -/
inductive Target where
  | register (r : Register)
  /-- FRAME bytes from this index. -/
  | frame (i : Nat)
  deriving DecidableEq, Repr

/-- The register at an offset that is a multiple of 4 (10_state.md section 1); none at a reserved
offset (10_state.md R36). -/
def registerAt (off : Nat) : Option Register :=
  if off < 0x40 then
    match off with
    | 0x00 => some .cmd
    | 0x04 => some .status
    | 0x08 => some .config
    | 0x0C => some .len
    | 0x10 => some .typeId
    | 0x14 => some .cmdType
    | 0x18 => some .check
    | 0x1C => some .crc
    | 0x20 => some .result
    | 0x24 => some .calcCrc
    | 0x28 => some .expLen
    | 0x2C => some .actLen
    | 0x30 => some .param
    | _ => none
  else if h : 0x40 ≤ off ∧ off ≤ 0x58 then some (.payload ⟨(off - 0x40) / 4, by omega⟩)
  else if 0x80 ≤ off ∧ off ≤ 0xBC then some (.crcTable (BitVec.ofNat 4 ((off - 0x80) / 4)))
  else none

/-- What a legal access of `n` at `off` reaches; none is a BusError (20_memory.md R55, R56, R57(a),
R57(b)). An aligned access never crosses from one region into another. -/
def locate (off : Byte) (n : AccessSize) : Option Target :=
  if frameBase ≤ off.toNat ∧ off.toNat < frameBase + frameSize then
    if off.toNat % n.bytes = 0 then some (.frame (off.toNat - frameBase)) else none
  else if n = .word ∧ off.toNat % 4 = 0 then (registerAt off.toNat).map .register
  else none

/-- CONFIG as the host reads it: REV in bit 0 (10_state.md R22). -/
def configWord (s : State) : Word :=
  match s.rev with
  | .a => 0#32
  | .b => 1#32

/-- PARAM: `{P_XOROUT, P_INIT, P_POLY}` (10_state.md R32). -/
def paramWord (p : Params) : Word := (p.xorOut ++ (p.init ++ p.poly)).setWidth 32

/-- The value of a register, reserved bits 0 (10_state.md R39). -/
def readRegister (s : State) : Register → Word
  | .cmd => s.cmd
  | .status => statusWord s
  | .config => configWord s
  | .len => s.len.setWidth 32
  | .typeId => s.typeId.setWidth 32
  | .cmdType => s.cmdType.setWidth 32
  | .check => s.check.setWidth 32
  | .crc => s.crc.setWidth 32
  | .result => s.result.setWidth 32
  | .calcCrc => s.calcCrc.setWidth 32
  | .expLen => s.expLen.setWidth 32
  | .actLen => s.actLen.setWidth 32
  | .param => paramWord s.params
  | .payload k => s.payload[k]
  | .crcTable i => (crcTable s.params.poly i).setWidth 32

/-- CONFIG.REV of a written word: bit 0, the reserved bits ignored (10_state.md R22, R39). -/
def revisionOfWord (v : Word) : Revision := if v.getLsbD 0 then .b else .a

/-- Write a register; none where it is read-only, a BusError (20_memory.md R57(c)). Reserved bits of
a read-write register are ignored (10_state.md R39). For CMD this is the storing of the word alone
(10_state.md R20). -/
def writeRegister (s : State) (v : Word) : Register → Option State
  | .cmd => some { s with cmd := v }
  | .config => some { s with rev := revisionOfWord v }
  | .len => some { s with len := v.setWidth 8 }
  | .typeId => some { s with typeId := v.setWidth 8 }
  | .cmdType => some { s with cmdType := v.setWidth 8 }
  | .check => some { s with check := v.setWidth 8 }
  | .crc => some { s with crc := v.setWidth 8 }
  | .payload k => some (s.writePayload k v)
  | .status | .result | .calcCrc | .expLen | .actLen | .param | .crcTable _ => none

/-- `MemRead(off, n)`: the value, or none for a BusError (20_memory.md R57, R59). -/
def memRead (s : State) (off : Byte) (n : AccessSize) : Option Word :=
  match locate off n with
  | none => none
  | some (.register r) => some (readRegister s r)
  | some (.frame i) => some (leWord (s.frameBytes i n.bytes))

/-- `MemWrite(off, n, v)` without the command of a CMD write: the new state, or none for a BusError
(20_memory.md R57 to R59). -/
def memWrite (s : State) (off : Byte) (n : AccessSize) (v : Word) : Option State :=
  match locate off n with
  | none => none
  | some (.register r) => writeRegister s v r
  | some (.frame i) => some (s.writeFrame i (leBytes n.bytes v))

end Sys2Proof.Machine
end

