-- ==== Sys2Proof/Machine/Codec.lean ====
section
/-! DEFINITION. The meanings of ENCODE and DECODE (41_codec.md). The codec's CRC is computed on a
private copy that starts at P_INIT; CRC and RESULT are never touched (40_crc.md R121). -/

namespace Sys2Proof.Machine

/-- The payload elements 0..N-1 as little-endian bytes (41_codec.md R133). -/
def payloadBytes (s : State) (n : Nat) : List Byte :=
  (s.payload.toList.take n).flatMap fun v => ser32 v .little

/-- The frame less its trailing byte: typeID, commandType, payload (41_codec.md R131, R132). -/
def frameBody (s : State) : List Byte :=
  ser8 s.typeId :: ser8 s.cmdType :: payloadBytes s (payloadCount s.rev)

/-- The trailing byte of ENCODE, after the body is in FRAME (41_codec.md R134): under revision A
FRAME[26] <- CHECK; under revision B the CRC of FRAME[0..30) goes to FRAME[30], CHECK and CALC_CRC. -/
def encodeTrailer (s : State) : State :=
  match s.rev with
  | .a => s.writeFrame 26 [ser8 s.check]
  | .b =>
    let c := crcCalculate s.params (s.frameBytes 0 30)
    { s.writeFrame 30 [c] with check := c, calcCrc := c }

/-- The effect of an ENCODE that passes its length check (41_codec.md R134): the frame, the trailing byte, LEN <- L. -/
def encodeFrame (s : State) : State :=
  { encodeTrailer (s.writeFrame 0 (frameBody s)) with len := BitVec.ofNat 8 (frameLength s.rev) }.succeed

/-- ENCODE (41_codec.md R134). EXP_LEN and ACT_LEN are written whether or not the counts agree (60_exceptions.md R182). -/
def execEncode (count : Nat) (s : State) : Host.Outcome State Fault Refusal :=
  if count = payloadCount s.rev then .next (encodeFrame (s.recordLengths (payloadCount s.rev) count))
  else .next (s.raise (.lengthMismatch (payloadCount s.rev) count))

/-- PAYLOAD after a DECODE (41_codec.md R135): elements 0..N-1 from FRAME, the others kept. -/
def decodedPayload (s : State) : Vector Word 7 :=
  Vector.ofFn fun k : Fin 7 =>
    if k.val < payloadCount s.rev then s.frameWord (payloadOffset k.val) .little else s.payload[k]

/-- CALC_CRC after a DECODE (41_codec.md R135): recomputed under revision B, kept under revision A. -/
def decodedCalcCrc (s : State) : Byte :=
  match s.rev with
  | .a => s.calcCrc
  | .b => crcCalculate s.params (s.frameBytes 0 30)

/-- The trailing byte FRAME[L-1] (41_codec.md R130). -/
def receivedByte (s : State) : Byte := s.frameByte (frameLength s.rev - 1)

/-- The effect of a DECODE that passes its length check (41_codec.md R135). A CRC mismatch is a status, not an error
(60_exceptions.md R185). -/
def decodeFrame (s : State) : State :=
  ({ s with
    typeId := s.frameByte 0
    cmdType := s.frameByte 1
    payload := decodedPayload s
    check := receivedByte s
    calcCrc := decodedCalcCrc s }.setCrcMis
      (crcMisFlag s.rev (decodedCalcCrc s) (receivedByte s))).succeed

/-- DECODE (41_codec.md R135). EXP_LEN and ACT_LEN are written whether or not the lengths agree (60_exceptions.md R182). -/
def execDecode (s : State) : Host.Outcome State Fault Refusal :=
  if s.len.toNat = frameLength s.rev then
    .next (decodeFrame (s.recordLengths (frameLength s.rev) s.len.toNat))
  else .next (s.raise (.lengthMismatch (frameLength s.rev) s.len.toNat))

end Sys2Proof.Machine
end

