-- ==== Sys2Proof/Machine/Crc.lean ====
section
/-! DEFINITION. The meanings of NOP and the CRC commands (40_crc.md section 2). -/

namespace Sys2Proof.Machine

/-- NOP (40_crc.md R110). -/
def execNop (s : State) : Host.Outcome State Fault Refusal := .next s.succeed

/-- CRC.INIT (40_crc.md R111). -/
def execCrcInit (s : State) : Host.Outcome State Fault Refusal :=
  .next { s with crc := s.params.init }.succeed

/-- CRC.UPD8 (40_crc.md R112). -/
def execCrcUpd8 (d : Byte) (s : State) : Host.Outcome State Fault Refusal :=
  .next { s with crc := crc8Upd s.params.poly s.crc d }.succeed

/-- CRC.UPDF (40_crc.md R113). -/
def execCrcUpdf (start count : Nat) (s : State) : Host.Outcome State Fault Refusal :=
  if frameRangeOk start count then
    .next { s with crc := crcUpdate s.params.poly s.crc (s.frameBytes start count) }.succeed
  else .next (s.raise .rangeError)

/-- CRC.FIN (40_crc.md R114). -/
def execCrcFin (s : State) : Host.Outcome State Fault Refusal :=
  .next { s with result := crcFinalize s.params s.crc }.succeed

/-- CRC.CALC (40_crc.md R115). CRC keeps the value before Finalize. -/
def execCrcCalc (start count : Nat) (s : State) : Host.Outcome State Fault Refusal :=
  if frameRangeOk start count then
    let c := crcUpdate s.params.poly s.params.init (s.frameBytes start count)
    .next { s with crc := c, result := crcFinalize s.params c }.succeed
  else .next (s.raise .rangeError)

end Sys2Proof.Machine
end

