-- ==== Sys2Proof/Machine/Packer.lean ====
section
/-! DEFINITION. The meanings of PACK.W and UNPACK.W (42_packer.md section 2). -/

namespace Sys2Proof.Machine

/-- PACK.W (42_packer.md R164). -/
def execPackW (k off : Nat) (e : ByteOrder) (s : State) : Host.Outcome State Fault Refusal :=
  if h : packOperandsOk k off then
    .next (s.writeFrame off (ser32 (s.payload[k]'h.1) e)).succeed
  else .next (s.raise .rangeError)

/-- UNPACK.W (42_packer.md R165). -/
def execUnpackW (k off : Nat) (e : ByteOrder) (s : State) : Host.Outcome State Fault Refusal :=
  if h : packOperandsOk k off then
    .next (s.writePayload ⟨k, h.1⟩ (s.frameWord off e)).succeed
  else .next (s.raise .rangeError)

end Sys2Proof.Machine
end

