-- ==== Sys2Proof/Machine/Dispatch.lean ====
section
/-! DEFINITION. One arm per command, each a direct call of its meaning. -/

namespace Sys2Proof.Machine

def exec (i : Instr) (s : State) : Host.Outcome State Fault Refusal :=
  match i with
  | .nop => Sys2Proof.Machine.execNop s
  | .crcInit => Sys2Proof.Machine.execCrcInit s
  | .crcUpd8 d => Sys2Proof.Machine.execCrcUpd8 d s
  | .crcUpdf start count => Sys2Proof.Machine.execCrcUpdf start count s
  | .crcFin => Sys2Proof.Machine.execCrcFin s
  | .crcCalc start count => Sys2Proof.Machine.execCrcCalc start count s
  | .encode count => Sys2Proof.Machine.execEncode count s
  | .decode => Sys2Proof.Machine.execDecode s
  | .packW k off e => Sys2Proof.Machine.execPackW k off e s
  | .unpackW k off e => Sys2Proof.Machine.execUnpackW k off e s

end Sys2Proof.Machine
end

