-- ==== Sys2Proof/Machine/Access.lean ====
section
/-! DEFINITION. What one host access does (20_memory.md R58, R61): a read, a write, the command a
CMD write issues, the reset event. -/

namespace Sys2Proof.Machine

/-- The command of the word in CMD (10_state.md R20): the decoded command, or ILLEGAL_COMMAND for
a word that selects none (30_encoding.md R74, 60_exceptions.md R183). -/
def runCommand (w : Word) (s : State) : Host.Outcome State Fault Refusal :=
  match decodeWord w with
  | .ok i => exec i s
  | .error _ => .next (s.raise .illegalCommand)

/-- The access stores into CMD, and so issues a command (20_memory.md R58: "the only access that
issues a command"). -/
def issuesCommand (off : Byte) (n : AccessSize) : Bool := decide (locate off n = some (.register .cmd))

/-- A host read (20_memory.md R57, R58). -/
def performRead (off : Byte) (n : AccessSize) (s : State) : Host.Outcome State Fault Refusal :=
  match memRead s off n with
  | none => .fault .busError
  | some v => .next (s.logRead v)

/-- A host write, with the command it issues, as one transition (20_memory.md R57, R58, R61). -/
def performWrite (off : Byte) (n : AccessSize) (v : Word) (s : State) :
    Host.Outcome State Fault Refusal :=
  match memWrite s off n v with
  | none => .fault .busError
  | some t => if issuesCommand off n then runCommand v t else .next t

/-- What the block does with one event of the host. -/
def performEvent (ev : HostEvent) (s : State) : Host.Outcome State Fault Refusal :=
  match ev with
  | .read off n => performRead off n s
  | .write off n v => performWrite off n v s
  | .reset => .next s.resetEvent

/-- The host access that hands the block a command word: `st32 0x00, w` (30_encoding.md R78). -/
def cmdWrite (w : Word) : HostEvent := .write 0x00#8 .word w

/-- One transition of the machine: the block performs the host's next access (20_memory.md R60); with
none pending it stands still (00_scope.md R14, log 5). -/
def nextAccess (s : State) : Host.Outcome State Fault Refusal :=
  match s.pending with
  | [] => .next s
  | ev :: rest => performEvent ev { s with pending := rest }

end Sys2Proof.Machine
end

