-- ==== Sys2Proof/Machine/Step.lean ====
section
/-! DEFINITION. One step of the machine, and how the host's next command is put before it. -/

namespace Sys2Proof.Machine

/-- One step: the block performs the host's next access (20_memory.md R60, R61). -/
def step (s : State) : Host.Outcome State Fault Refusal := nextAccess s

/-- The state whose next step issues the command word `w`: the block does not fetch (10_state.md R37),
so the word is put first among the host's accesses, as a write to CMD (10_state.md R20; log 5,
log 14). The bits from `nbits` up are zero. -/
def State.withFetchWord (s : State) (nbits w : Nat) : State :=
  { s with pending := cmdWrite (BitVec.ofNat 32 (w % 2 ^ nbits)) :: s.pending }

end Sys2Proof.Machine
end

