-- ==== Sys2Proof/Machine/Assembler.lean ====
section
/-! DEFINITION. The text form of a command (30_encoding.md R77), read from a list of characters. -/

namespace Sys2Proof.Machine

/-- White space between the parts of a command line (log 16). -/
def isBlank (c : Char) : Bool := c == ' ' || c == '\t'

/-- A text without the blanks at its two ends. -/
def trimBlanks (cs : List Char) : List Char :=
  ((cs.dropWhile isBlank).reverse.dropWhile isBlank).reverse

/-- Cut a text at every comma. -/
def splitCommas : List Char → List (List Char)
  | [] => [[]]
  | c :: cs =>
    match splitCommas cs with
    | [] => [[c]]
    | w :: ws => if c == ',' then [] :: w :: ws else (c :: w) :: ws

/-- The value of a hexadecimal digit. -/
def digitValue (c : Char) : Option Nat :=
  if '0' ≤ c ∧ c ≤ '9' then some (c.toNat - '0'.toNat)
  else if 'a' ≤ c ∧ c ≤ 'f' then some (c.toNat - 'a'.toNat + 10)
  else if 'A' ≤ c ∧ c ≤ 'F' then some (c.toNat - 'A'.toNat + 10)
  else none

/-- The digits of a number in a base, after the value `acc` of the digits before them. -/
def parseDigits (base acc : Nat) : List Char → Option Nat
  | [] => some acc
  | c :: cs =>
    match digitValue c with
    | some v => if v < base then parseDigits base (base * acc + v) cs else none
    | none => none

/-- A decimal or `0x` hexadecimal number (30_encoding.md R77). -/
def parseNumber : List Char → Option Nat
  | [] => none
  | '0' :: 'x' :: d :: ds => parseDigits 16 0 (d :: ds)
  | d :: ds => parseDigits 10 0 (d :: ds)

/-- `le` or `be` (30_encoding.md R77). -/
def parseByteOrder (cs : List Char) : Option ByteOrder :=
  if cs = ['l', 'e'] then some .little else if cs = ['b', 'e'] then some .big else none

/-- The mnemonics of 30_encoding.md R77, in lower case. -/
def mnemonicTable : List (List Char × Opcode) :=
  [ (['n', 'o', 'p'], .nop),
    (['c', 'r', 'c', '.', 'i', 'n', 'i', 't'], .crcInit),
    (['c', 'r', 'c', '.', 'u', 'p', 'd', '8'], .crcUpd8),
    (['c', 'r', 'c', '.', 'u', 'p', 'd', 'f'], .crcUpdf),
    (['c', 'r', 'c', '.', 'f', 'i', 'n'], .crcFin),
    (['c', 'r', 'c', '.', 'c', 'a', 'l', 'c'], .crcCalc),
    (['e', 'n', 'c', 'o', 'd', 'e'], .encode),
    (['d', 'e', 'c', 'o', 'd', 'e'], .decode),
    (['p', 'a', 'c', 'k', '.', 'w'], .packW),
    (['u', 'n', 'p', 'a', 'c', 'k', '.', 'w'], .unpackW) ]

/-- "Mnemonics are case-insensitive" (30_encoding.md R77). -/
def parseMnemonic (cs : List Char) : Option Opcode :=
  (mnemonicTable.find? fun row => row.1 == cs.map Char.toLower).map fun row => row.2

/-- Two numbers as the operands of a command. -/
def withNumbers (a b : List Char) (f : Nat → Nat → Instr) : Option Instr :=
  match parseNumber a, parseNumber b with
  | some m, some n => some (f m n)
  | _, _ => none

/-- The operands of a mnemonic (30_encoding.md R77): the byte order of the packer commands defaults to
`le`. -/
def parseOperands (op : Opcode) (args : List (List Char)) : Option Instr :=
  match op, args with
  | .nop, [] => some .nop
  | .crcInit, [] => some .crcInit
  | .crcUpd8, [a] =>
    match parseNumber a with
    | some n => if fitsField n then some (.crcUpd8 (BitVec.ofNat 8 n)) else none
    | none => none
  | .crcUpdf, [a, b] => withNumbers a b fun m n => .crcUpdf m n
  | .crcFin, [] => some .crcFin
  | .crcCalc, [a, b] => withNumbers a b fun m n => .crcCalc m n
  | .encode, [a] => (parseNumber a).map fun n => .encode n
  | .decode, [] => some .decode
  | .packW, [a, b] => withNumbers a b fun m n => .packW m n .little
  | .packW, [a, b, e] => (parseByteOrder e).bind fun o => withNumbers a b fun m n => .packW m n o
  | .unpackW, [a, b] => withNumbers a b fun m n => .unpackW m n .little
  | .unpackW, [a, b, e] => (parseByteOrder e).bind fun o => withNumbers a b fun m n => .unpackW m n o
  | _, _ => none

/-- The mnemonic of a command line: up to its first blank (log 16). -/
def lineMnemonic (text : List Char) : List Char := (trimBlanks text).takeWhile fun c => !isBlank c

/-- The operands of a command line: the texts after the mnemonic, separated by commas (30_encoding.md R77). -/
def lineOperands (text : List Char) : List (List Char) :=
  let rest := trimBlanks ((trimBlanks text).dropWhile fun c => !isBlank c)
  if rest.isEmpty then [] else (splitCommas rest).map trimBlanks

/-- A command line: a mnemonic, then operands separated by commas (30_encoding.md R77). -/
def parseCommand (text : List Char) : Option Instr :=
  (parseMnemonic (lineMnemonic text)).bind fun op => parseOperands op (lineOperands text)

/-- The word of a command line; an operand that does not fit its field is an assembly error
(30_encoding.md R77). -/
def assembleText (text : List Char) : Option Word := (parseCommand text).bind assemble

end Sys2Proof.Machine
end

