-- ==== Sys2Proof/Machine/HostProgram.lean ====
section
/-! DEFINITION. Host programs as sequences of bus accesses: the line forms of 30_encoding.md R78 and the
host's side of the transport (20_memory.md R65). -/

namespace Sys2Proof.Machine

/-- A line of a host program (30_encoding.md R78). Offsets are naturals relative to P_BASE. -/
inductive HostLine where
  /-- `st8` / `st16` / `st32`. -/
  | st (n : AccessSize) (off : Nat) (v : Word)
  /-- `ld8` / `ld16` / `ld32`. -/
  | ld (n : AccessSize) (off : Nat)
  /-- `cmd <command>`. -/
  | cmd (i : Instr)
  /-- `rev a` / `rev b`. -/
  | rev (r : Revision)
  /-- `crc.set <v>`. -/
  | crcSet (v : Word)
  /-- `frame <off>, <b0> <b1> ...`. -/
  | frame (off : Nat) (bs : List Byte)
  /-- `len <v>`. -/
  | len (v : Word)
  deriving DecidableEq, Repr

/-- `st8 0xC0+off, b0; st8 0xC0+off+1, b1; ...` (30_encoding.md R78). -/
def frameStores (off : Nat) : List Byte → List HostEvent
  | [] => []
  | b :: bs => .write (BitVec.ofNat 8 (frameBase + off)) .byte (b.setWidth 32) :: frameStores (off + 1) bs

/-- The accesses of a line (30_encoding.md R78); none for a line that is no access of the window: an
offset outside 0x00-0xFF (20_memory.md R50) or a command that is an assembly error (R77) (log 16). -/
def expandLine : HostLine → Option (List HostEvent)
  | .st n off v => if off < 256 then some [.write (BitVec.ofNat 8 off) n v] else none
  | .ld n off => if off < 256 then some [.read (BitVec.ofNat 8 off) n] else none
  | .cmd i => (assemble i).map fun w => [cmdWrite w]
  | .rev .a => some [.write 0x08#8 .word 0#32]
  | .rev .b => some [.write 0x08#8 .word 1#32]
  | .crcSet v => some [.write 0x1C#8 .word v]
  | .frame off bs => if frameBase + off + bs.length ≤ 256 then some (frameStores off bs) else none
  | .len v => some [.write 0x0C#8 .word v]

/-- The accesses of a host program, line after line; none where a line is an error. -/
def expandProgram : List HostLine → Option (List HostEvent)
  | [] => some []
  | l :: ls =>
    match expandLine l, expandProgram ls with
    | some es, some rest => some (es ++ rest)
    | _, _ => none

/-- `writeFrame(address, bytes)` on the block's side: the host reads FRAME[0..LEN) after ENCODE and hands
the bytes on (20_memory.md R65). -/
def transportSend (len : Nat) : List HostEvent :=
  (List.range len).map fun i => .read (BitVec.ofNat 8 (frameBase + i)) .byte

/-- `readFrame(address, length)` on the block's side: the host writes the delivered bytes to FRAME (at
most FRAME_SIZE of them) and their count to LEN before DECODE (20_memory.md R65, log 15). -/
def transportReceive (delivered : List Byte) : List HostEvent :=
  frameStores 0 (delivered.take frameSize) ++
    [.write 0x0C#8 .word (BitVec.ofNat 32 delivered.length)]

end Sys2Proof.Machine
end

