-- ==== Sys2Proof/Safety.lean ====
section
/-! DEFINITION. The terms claims are stated in: the invariant, legal accesses, result codes, and
reference forms of the encoding, the CRC and the frame layout that do not use the model's own. -/

namespace Sys2Proof.Safety

open Sys2Proof.Machine

/-- The invariant every step keeps: the byte storage is in canonical form and lists FRAME offsets only
(10_state.md R35, R36: the other offsets hold no byte storage). -/
abbrev StorageInv (s : State) : Prop := Memory.wf s.frame

/-- The match column of 30_encoding.md R72. -/
def rowMatch : Opcode → Word
  | .nop => 0x00000000#32
  | .crcInit => 0x00000001#32
  | .crcUpd8 => 0x00000002#32
  | .crcUpdf => 0x00000003#32
  | .crcFin => 0x00000004#32
  | .crcCalc => 0x00000005#32
  | .encode => 0x00000010#32
  | .decode => 0x00000011#32
  | .packW => 0x00000020#32
  | .unpackW => 0x00000021#32

/-- The mask column of 30_encoding.md R72. -/
def rowMask : Opcode → Word
  | .nop => 0xFFFFFFFF#32
  | .crcInit => 0xFFFFFFFF#32
  | .crcUpd8 => 0xFFFF00FF#32
  | .crcUpdf => 0xFF0000FF#32
  | .crcFin => 0xFFFFFFFF#32
  | .crcCalc => 0xFF0000FF#32
  | .encode => 0xFFFF00FF#32
  | .decode => 0xFFFFFFFF#32
  | .packW => 0xFE0000FF#32
  | .unpackW => 0xFE0000FF#32

/-- The word matches the row: `(CW & mask) == match` (30_encoding.md R72). -/
abbrev matchesRow (w : Word) (op : Opcode) : Prop := w &&& rowMask op = rowMatch op

/-- The 8-bit field of a word whose lowest bit is `lo`, zero-extended (30_encoding.md R70, R71). -/
def byteField (w : Word) (lo : Nat) : Nat := w.toNat / 2 ^ lo % 256

/-- Bit 24 of a word as a byte order (30_encoding.md R70). -/
def orderField (w : Word) : ByteOrder := if w.toNat / 2 ^ 24 % 2 = 1 then .big else .little

/-- The command of a row with the operands a word carries: A in bits 15:8, B in bits 23:16, E in bit 24
(30_encoding.md R72). -/
def rowCommand (op : Opcode) (w : Word) : Instr :=
  match op with
  | .nop => .nop
  | .crcInit => .crcInit
  | .crcUpd8 => .crcUpd8 (BitVec.ofNat 8 (byteField w 8))
  | .crcUpdf => .crcUpdf (byteField w 8) (byteField w 16)
  | .crcFin => .crcFin
  | .crcCalc => .crcCalc (byteField w 8) (byteField w 16)
  | .encode => .encode (byteField w 8)
  | .decode => .decode
  | .packW => .packW (byteField w 8) (byteField w 16) (orderField w)
  | .unpackW => .unpackW (byteField w 8) (byteField w 16) (orderField w)

/-- The number of bytes of an access size, n of 20_memory.md R50. -/
abbrev accessBytes (n : AccessSize) : Nat :=
  match n with
  | .byte => 1
  | .half => 2
  | .word => 4

/-- The table of legal sizes and alignments (20_memory.md R55), reserved offsets left out (10_state.md R36). -/
abbrev legalAccess (off : Byte) (n : AccessSize) : Prop :=
  (n = .word ∧ off.toNat % 4 = 0 ∧
    (off.toNat ≤ 0x30 ∨ (0x40 ≤ off.toNat ∧ off.toNat ≤ 0x58) ∨ (0x80 ≤ off.toNat ∧ off.toNat ≤ 0xBC))) ∨
  (0xC0 ≤ off.toNat ∧ off.toNat ≤ 0xDF ∧ off.toNat % accessBytes n = 0)

/-- The read-only registers: STATUS, RESULT, CALC_CRC, EXP_LEN, ACT_LEN, PARAM, CRC_TABLE (20_memory.md R57(c)). -/
abbrev readOnlyOffset (off : Byte) : Prop :=
  off.toNat = 0x04 ∨ (0x20 ≤ off.toNat ∧ off.toNat ≤ 0x30) ∨ (0x80 ≤ off.toNat ∧ off.toNat ≤ 0xBC)

/-- A host event that gets no BusError (20_memory.md R57). A safe run performs such events only. -/
def legalEvent : HostEvent → Prop
  | .read off n => legalAccess off n
  | .write off n _ => legalAccess off n ∧ ¬ readOnlyOffset off
  | .reset => True

/-- The result code of a command (60_exceptions.md R180, R187): RANGE_ERROR from the bounds of the CRC
and packer commands, LENGTH_MISMATCH from the codec's counts, else OK. -/
def resultCode (i : Instr) (s : State) : ErrCode :=
  match i with
  | .nop | .crcInit | .crcUpd8 _ | .crcFin => .ok
  | .crcUpdf start count | .crcCalc start count => if 32 < start + count then .rangeError else .ok
  | .encode count =>
    match s.rev with
    | .a => if count = 6 then .ok else .lengthMismatch
    | .b => if count = 7 then .ok else .lengthMismatch
  | .decode =>
    match s.rev with
    | .a => if s.len = 27#8 then .ok else .lengthMismatch
    | .b => if s.len = 31#8 then .ok else .lengthMismatch
  | .packW k off _ | .unpackW k off _ => if 6 < k ∨ 32 < off + 4 then .rangeError else .ok

/-- `step^8` of 40_crc.md R103 and R107: eight bit steps. -/
def eightSteps (poly x : Byte) : Byte := Nat.iterate (crcStep poly) 8 x

/-- Update over a sequence by the bit-serial form of 40_crc.md R103. -/
def serialUpdate (poly c : Byte) (bs : List Byte) : Byte := bs.foldl (fun c d => eightSteps poly (c ^^^ d)) c

/-- The generator of 40_crc.md R100: x^8 and the terms of P_POLY. -/
def generator (poly : Byte) : BitVec 16 := 0x0100#16 ^^^ poly.setWidth 16

/-- One step of long division: clear the term of degree 8+j with the generator. -/
def divideAt (g v : BitVec 16) (j : Nat) : BitVec 16 := if v.getLsbD (8 + j) then v ^^^ (g <<< j) else v

/-- The remainder of x * x^8 by the generator (40_crc.md R100), by long division from the top term down. -/
def remainder (poly x : Byte) : Byte :=
  ([7, 6, 5, 4, 3, 2, 1, 0].foldl (divideAt (generator poly)) (x.setWidth 16 <<< 8)).setWidth 8

/-- A byte sequence with one bit flipped: bit j of element i. -/
def flipBit (bs : List Byte) (i j : Nat) : List Byte := bs.modify i fun b => b ^^^ (1#8 <<< j)

/-- Byte j of a word, as a shift. -/
def byteOf (v : Word) (j : Nat) : Byte := (v >>> (8 * j)).setWidth 8

/-- The little-endian number of four bytes. -/
def littleNat (b0 b1 b2 b3 : Byte) : Nat :=
  b0.toNat + 256 * b1.toNat + 65536 * b2.toNat + 16777216 * b3.toNat

/-- Byte i of the frame of the message in the registers, less the trailing byte (41_codec.md R131 to R133). -/
def messageByte (s : State) (i : Nat) : Byte :=
  if i = 0 then s.typeId else if i = 1 then s.cmdType else byteOf (s.payload[(i - 2) / 4]?.getD 0#32) ((i - 2) % 4)

/-- The CRC of the revision B frame of the message in the registers: over its first 30 bytes, in the
bit-serial form, from P_INIT and with P_XOROUT (41_codec.md R132). -/
def messageCrc (s : State) : Byte :=
  serialUpdate s.params.poly s.params.init ((List.range 30).map (messageByte s)) ^^^ s.params.xorOut

/-- The CRC of FRAME[0..30) in the bit-serial form (41_codec.md R135). -/
def frameCrc (s : State) : Byte :=
  serialUpdate s.params.poly s.params.init ((List.range 30).map s.frameByte) ^^^ s.params.xorOut

/-- The byte at every window offset outside `lo .. lo+n` reads the same in both states. -/
abbrev sameBytesOutside (s t : State) (lo n : Nat) : Prop :=
  ∀ a, ¬ (lo ≤ a ∧ a < lo + n) → Memory.read t.frame t.epoch a = Memory.read s.frame s.epoch a

/-- The FRAME bytes a command reads (40_crc.md R113, R115; 41_codec.md R135; 42_packer.md R165): none when it
ends in an error. ENCODE reads only bytes it has just written. -/
def framesRead (i : Instr) (s : State) : List Nat :=
  if resultCode i s = .ok then
    match i with
    | .crcUpdf start count | .crcCalc start count => (List.range count).map (start + ·)
    | .decode => List.range (match s.rev with | .a => 27 | .b => 31)
    | .unpackW _ off _ => [off, off + 1, off + 2, off + 3]
    | .nop | .crcInit | .crcUpd8 _ | .crcFin | .encode _ | .packW _ _ _ => []
  else []

/-- The outcome with its next state changed by `f`. -/
def mapNext (f : State → State) : Host.Outcome State Fault Refusal → Host.Outcome State Fault Refusal
  | .next t => .next (f t)
  | .fault r => .fault r
  | .refused r => .refused r

/-- The step that performs one event of the host on a state, its own pending accesses kept. -/
def perform (s : State) (ev : HostEvent) : Host.Outcome State Fault Refusal :=
  step { s with pending := ev :: s.pending }

/-- A host read of `n` at `off` returns `v` and has no other effect (20_memory.md R58). -/
abbrev readsAs (s : State) (off : Byte) (n : AccessSize) (v : Word) : Prop :=
  perform s (.read off n) = .next { s with reads := s.reads ++ [v] }

/-- The other wire revision. -/
def otherRevision : Revision → Revision
  | .a => .b
  | .b => .a

end Sys2Proof.Safety
end

