-- ==== Sys2Proof/Certificates/Slice0/Obligations.lean ====
section
/-! DEFINITION. The statements for the provers. Each docstring names the rule it formalises. -/

open Sys2Proof Sys2Proof.Machine Sys2Proof.Safety

/-! ### Encoding (30_encoding.md) -/

/-- Decoding the word of a well-formed command gives the command back, at every operand value (R70 to R72). -/
def Obligations.DecodeOfEncodeIsTheCommand : Prop :=
  ∀ i : Instr, i.wellFormed = true → decodeWord (Sys2Proof.encode i) = .ok i

/-- R72: a word selects a row's command, with the operands of its fields, exactly when `(CW & mask) == match`; at most
one row matches; and a word that decodes matches a row. -/
def Obligations.WordSelectsExactlyTheMatchingRow : Prop :=
  (∀ (w : Word) (op : Opcode), matchesRow w op ↔ decodeWord w = .ok (rowCommand op w)) ∧
  (∀ (w : Word) (op op' : Opcode), matchesRow w op → matchesRow w op' → op = op') ∧
  ∀ (w : Word) (i : Instr), decodeWord w = .ok i → ∃ op, matchesRow w op

/-- Every word that decodes is the word of the command it decodes to, and that command is well formed (R72 to R74). -/
def Obligations.DecodedCommandEncodesBackToItsWord : Prop :=
  ∀ (w : Word) (i : Instr), decodeWord w = .ok i → i.wellFormed = true ∧ Sys2Proof.encode i = w

/-- R79: the spec's encoding examples, legal and illegal. -/
def Obligations.EncodingExamplesDecode : Prop :=
  decodeWord 0x00000000#32 = .ok .nop ∧
  decodeWord 0x00000001#32 = .ok .crcInit ∧
  decodeWord 0x00003102#32 = .ok (.crcUpd8 0x31#8) ∧
  decodeWord 0x001E0003#32 = .ok (.crcUpdf 0 30) ∧
  decodeWord 0x00000004#32 = .ok .crcFin ∧
  decodeWord 0x00090005#32 = .ok (.crcCalc 0 9) ∧
  decodeWord 0x00000710#32 = .ok (.encode 7) ∧
  decodeWord 0x00000610#32 = .ok (.encode 6) ∧
  decodeWord 0x00000011#32 = .ok .decode ∧
  decodeWord 0x000E0320#32 = .ok (.packW 3 14 .little) ∧
  decodeWord 0x01000020#32 = .ok (.packW 0 0 .big) ∧
  decodeWord 0x001A0621#32 = .ok (.unpackW 6 26 .little) ∧
  decodeWord 0x00000012#32 = .error .unassignedOpcode ∧
  decodeWord 0x00000101#32 = .error .reservedOperand ∧
  decodeWord 0x02000020#32 = .error .reservedBits

/-- R183: a CMD write of a word that matches no row stores the word, sets ERR to ILLEGAL_COMMAND and changes nothing
else. -/
def Obligations.IllegalWordIsStoredAndReported : Prop :=
  ∀ (s : State) (w : Word), (∀ op, ¬ matchesRow w op) →
    perform s (cmdWrite w) = .next { s with cmd := w, err := .illegalCommand }

/-- An operand that does not fit its 8-bit field is an assembly error, not a truncation; what does assemble decodes back
(R77). It is said of commands with numeric operands and of command lines: no line with a number of 256 or more as an
operand assembles, and a CRC.UPD8 line with such a byte is no command. How a line is cut is the model's (log 16). -/
def Obligations.WideOperandIsAnAssemblyError : Prop :=
  (∀ (text operand : List Char) (n : Nat), operand ∈ lineOperands text → parseNumber operand = some n → 256 ≤ n →
    assembleText text = none ∧
    (parseMnemonic (lineMnemonic text) = some .crcUpd8 → parseCommand text = none)) ∧
  (∀ (text : List Char) (w : Word), assembleText text = some w →
    ∃ i, parseCommand text = some i ∧ decodeWord w = .ok i) ∧
  (∀ (n m : Nat) (e : ByteOrder), 256 ≤ n →
    assemble (.crcUpdf n m) = none ∧ assemble (.crcUpdf m n) = none ∧
    assemble (.crcCalc n m) = none ∧ assemble (.crcCalc m n) = none ∧ assemble (.encode n) = none ∧
    assemble (.packW n m e) = none ∧ assemble (.packW m n e) = none ∧
    assemble (.unpackW n m e) = none ∧ assemble (.unpackW m n e) = none) ∧
  ∀ (i : Instr) (w : Word), assemble i = some w → decodeWord w = .ok i

/-- A CMD write of a word that decodes to a command is that command's meaning on the state with the word in CMD
and the access taken from the host's list (10_state.md R20, 20_memory.md R61; the list is the model's, log 5). -/
def Obligations.StepRunsTheDecodedCommand : Prop :=
  ∀ (s : State) (w : Word) (rest : List HostEvent) (i : Instr),
    s.pending = cmdWrite w :: rest → decodeWord w = .ok i →
    step s = exec i { s with pending := rest, cmd := w }

/-! ### The CRC engine (40_crc.md) -/

/-- R101's table for P_POLY = 0x07: CRC_TABLE[0..15] under the default polynomial. -/
def Obligations.NibbleTableOfTheDefaultPolynomial : Prop :=
  (List.range 16).map (fun i => crcTable 0x07#8 (BitVec.ofNat 4 i)) =
    [0x00#8, 0x07#8, 0x0E#8, 0x09#8, 0x1C#8, 0x1B#8, 0x12#8, 0x15#8,
     0x38#8, 0x3F#8, 0x36#8, 0x31#8, 0x24#8, 0x23#8, 0x2A#8, 0x2D#8]

/-- R103: the nibble-table update equals eight bit steps on `c ^ d`, for every polynomial. -/
def Obligations.ByteUpdateIsEightBitSteps : Prop :=
  ∀ poly c d : Byte, crc8Upd poly c d = eightSteps poly (c ^^^ d)

/-- The one-byte update is the remainder of `(c ^ d) * x^8` by the generator, by long division (R100, R103). -/
def Obligations.ByteUpdateIsPolynomialRemainder : Prop :=
  ∀ poly c d : Byte, crc8Upd poly c d = remainder poly (c ^^^ d)

/-- R104: Update is the fold of the one-byte update, and updating over two chunks is updating over the whole, as a
function and as two CRC.UPDF commands in a row. -/
def Obligations.UpdateOverChunksIsUpdateOverTheWhole : Prop :=
  (∀ poly c : Byte, crcUpdate poly c [] = c) ∧
  (∀ (poly c d : Byte) (bs : List Byte), crcUpdate poly c (d :: bs) = crcUpdate poly (crc8Upd poly c d) bs) ∧
  (∀ (poly c : Byte) (bs : List Byte) (k : Nat), k ≤ bs.length →
    crcUpdate poly (crcUpdate poly c (bs.take k)) (bs.drop k) = crcUpdate poly c bs) ∧
  ∀ (s : State) (start m n : Nat), start + (m + n) ≤ 32 →
    ∃ t, exec (.crcUpdf start m) s = .next t ∧
      exec (.crcUpdf (start + m) n) t = exec (.crcUpdf start (m + n)) s

/-- R107: the update is a linear function of `c ^ d`, and a sequence followed by its checksum leaves a residue that
depends on P_XOROUT alone. -/
def Obligations.EngineIsLinearWithFixedResidue : Prop :=
  (∀ poly c d : Byte, crc8Upd poly c d = eightSteps poly (c ^^^ d)) ∧
  (∀ poly : Byte, eightSteps poly 0#8 = 0#8) ∧
  (∀ poly x y : Byte, eightSteps poly (x ^^^ y) = eightSteps poly x ^^^ eightSteps poly y) ∧
  (∀ (p : Params) (bs : List Byte),
    crcUpdate p.poly p.init (bs ++ [crcCalculate p bs]) = eightSteps p.poly p.xorOut) ∧
  eightSteps Params.defaults.poly Params.defaults.xorOut = 0x00#8

/-- R108: when P_POLY is not 0, flipping any one bit of any sequence changes its checksum. -/
def Obligations.SingleBitFlipChangesTheChecksum : Prop :=
  ∀ (p : Params) (bs : List Byte) (i j : Nat), p.poly ≠ 0x00#8 → i < bs.length → j < 8 →
    crcCalculate p (flipBit bs i j) ≠ crcCalculate p bs

/-- R106: the checksum of zero bytes is `P_INIT ^ P_XOROUT`, and CRC.CALC over an empty range never fails. -/
def Obligations.EmptyRangeGivesTheEmptyChecksum : Prop :=
  ∀ (s : State) (start : Nat), start ≤ 32 →
    crcCalculate s.params [] = s.params.init ^^^ s.params.xorOut ∧
    exec (.crcCalc start 0) s =
      .next { s with crc := s.params.init, result := s.params.init ^^^ s.params.xorOut, err := .ok }

/-! ### NOP and the CRC commands (40_crc.md section 2) -/

/-- R110: NOP writes STATUS.ERR <- 0 and nothing else; its word is 0x00000000, and a word with OPC 0x00 and a nonzero
field is ILLEGAL_COMMAND. -/
def Obligations.NopClearsErrAlone : Prop :=
  (∀ s : State, exec .nop s = .next { s with err := .ok }) ∧
  (∀ w : Word, w = 0x00000000#32 ↔ decodeWord w = .ok .nop) ∧
  ∀ (s : State) (w : Word), byteField w 0 = 0 → w ≠ 0x00000000#32 →
    perform s (cmdWrite w) = .next { s with cmd := w, err := .illegalCommand }

/-- R111: CRC.INIT writes CRC <- P_INIT and STATUS.ERR <- 0 and nothing else (RESULT is not written); its word is
0x00000001. -/
def Obligations.CrcInitLoadsTheInitialValue : Prop :=
  (∀ s : State, exec .crcInit s = .next { s with crc := s.params.init, err := .ok }) ∧
  ∀ w : Word, w = 0x00000001#32 ↔ decodeWord w = .ok .crcInit

/-- R112 (with R103): CRC.UPD8 folds its byte into CRC, writes STATUS.ERR <- 0 and nothing else; a byte equal to CRC
gives 0; its words are those of R112's match and mask, with the byte in bits 15:8. -/
def Obligations.CrcUpd8FoldsItsByte : Prop :=
  (∀ (s : State) (d : Byte),
    exec (.crcUpd8 d) s = .next { s with crc := crc8Upd s.params.poly s.crc d, err := .ok } ∧
    crc8Upd s.params.poly s.crc d = eightSteps s.params.poly (s.crc ^^^ d) ∧
    (d = s.crc → exec (.crcUpd8 d) s = .next { s with crc := 0x00#8, err := .ok })) ∧
  ∀ w : Word, w &&& 0xFFFF00FF#32 = 0x00000002#32 ↔ decodeWord w = .ok (.crcUpd8 (BitVec.ofNat 8 (byteField w 8)))

/-- R113: CRC.UPDF folds FRAME[A..A+B) into CRC when A + B <= 32 and is RANGE_ERROR otherwise; it changes nothing
else; its words are those of R113's match and mask. -/
def Obligations.CrcUpdfFoldsTheFrameRange : Prop :=
  (∀ w : Word, w &&& 0xFF0000FF#32 = 0x00000003#32 ↔
    decodeWord w = .ok (.crcUpdf (byteField w 8) (byteField w 16))) ∧
  ∀ (s : State) (start count : Nat),
    (start + count ≤ 32 → exec (.crcUpdf start count) s =
      .next { s with
        crc := serialUpdate s.params.poly s.crc ((List.range count).map fun j => s.frameByte (start + j))
        err := .ok }) ∧
    (32 < start + count → exec (.crcUpdf start count) s = .next { s with err := .rangeError })

/-- R114: CRC.FIN writes RESULT <- CRC ^ P_XOROUT and STATUS.ERR <- 0 and nothing else; with P_XOROUT = 0x00 RESULT
equals CRC; its word is 0x00000004. -/
def Obligations.CrcFinWritesTheChecksum : Prop :=
  (∀ s : State, exec .crcFin s = .next { s with result := s.crc ^^^ s.params.xorOut, err := .ok } ∧
    (s.params.xorOut = 0x00#8 → exec .crcFin s = .next { s with result := s.crc, err := .ok })) ∧
  ∀ w : Word, w = 0x00000004#32 ↔ decodeWord w = .ok .crcFin

/-- R115: CRC.CALC computes from P_INIT over FRAME[A..A+B), leaves the unfinalized value in CRC and the checksum in
RESULT; RANGE_ERROR when A + B > 32; nothing else changes; its words are those of R115's match and mask. -/
def Obligations.CrcCalcWritesCrcAndResult : Prop :=
  (∀ w : Word, w &&& 0xFF0000FF#32 = 0x00000005#32 ↔
    decodeWord w = .ok (.crcCalc (byteField w 8) (byteField w 16))) ∧
  ∀ (s : State) (start count : Nat),
    (start + count ≤ 32 → ∃ c,
      c = serialUpdate s.params.poly s.params.init ((List.range count).map fun j => s.frameByte (start + j)) ∧
      exec (.crcCalc start count) s =
        .next { s with crc := c, result := c ^^^ s.params.xorOut, err := .ok }) ∧
    (32 < start + count → exec (.crcCalc start count) s = .next { s with err := .rangeError })

/-! ### The codec (41_codec.md) -/

/-- R134 under revision A (R131, R133): ENCODE 6 lays out the 27 bytes, copies CHECK to the trailing byte, sets LEN,
EXP_LEN and ACT_LEN, and changes nothing else; every other byte of FRAME reads as before. -/
def Obligations.EncodeRevisionALaysOutTheFrame : Prop :=
  ∀ s : State, s.rev = .a → ∃ t, exec (.encode 6) s = .next t ∧
    t = { s with frame := t.frame, len := 27#8, expLen := 6#8, actLen := 6#8, err := .ok } ∧
    (∀ i, i < 26 → t.frameByte i = messageByte s i) ∧ t.frameByte 26 = s.check ∧
    sameBytesOutside s t 0xC0 27

/-- R134 under revision B (R132, R133): ENCODE 7 lays out the 31 bytes, writes the CRC of the first 30 to FRAME[30],
CHECK and CALC_CRC, sets LEN, EXP_LEN and ACT_LEN, and changes nothing else. -/
def Obligations.EncodeRevisionBLaysOutTheFrame : Prop :=
  ∀ s : State, s.rev = .b → ∃ t, exec (.encode 7) s = .next t ∧
    t = { s with
      frame := t.frame, len := 31#8, expLen := 7#8, actLen := 7#8
      check := messageCrc s, calcCrc := messageCrc s, err := .ok } ∧
    (∀ i, i < 30 → t.frameByte i = messageByte s i) ∧ t.frameByte 30 = messageCrc s ∧
    sameBytesOutside s t 0xC0 31

/-- R134, R182: ENCODE with a count other than N writes EXP_LEN and ACT_LEN, sets ERR to LENGTH_MISMATCH and changes
nothing else. -/
def Obligations.EncodeOfAWrongCountIsLengthMismatch : Prop :=
  ∀ (s : State) (count : Nat), count < 256 →
    (s.rev = .a → count ≠ 6 → exec (.encode count) s =
      .next { s with expLen := 6#8, actLen := BitVec.ofNat 8 count, err := .lengthMismatch }) ∧
    (s.rev = .b → count ≠ 7 → exec (.encode count) s =
      .next { s with expLen := 7#8, actLen := BitVec.ofNat 8 count, err := .lengthMismatch })

/-- R135 under revision A: DECODE of a 27-byte buffer loads TYPEID, CMDTYPE, PAYLOAD[0..6) and CHECK from FRAME, clears
CRCMIS, keeps PAYLOAD[6] and CALC_CRC, and changes nothing else. -/
def Obligations.DecodeRevisionALoadsTheMessage : Prop :=
  ∀ s : State, s.rev = .a → s.len = 27#8 → ∃ t, exec .decode s = .next t ∧
    t = { s with
      typeId := s.frameByte 0, cmdType := s.frameByte 1, payload := t.payload, check := s.frameByte 26
      crcMis := false, expLen := 27#8, actLen := 27#8, err := .ok } ∧
    (∀ k : Fin 7, k.val < 6 → (t.payload[k]).toNat =
      littleNat (s.frameByte (2 + 4 * k.val)) (s.frameByte (3 + 4 * k.val)) (s.frameByte (4 + 4 * k.val))
        (s.frameByte (5 + 4 * k.val))) ∧
    t.payload[6] = s.payload[6]

/-- R135 under revision B: DECODE of a 31-byte buffer loads every message register from FRAME, recomputes the CRC into
CALC_CRC, reports a mismatch in CRCMIS with ERR = 0, and changes nothing else. -/
def Obligations.DecodeRevisionBLoadsTheMessage : Prop :=
  ∀ s : State, s.rev = .b → s.len = 31#8 → ∃ t, exec .decode s = .next t ∧
    t = { s with
      typeId := s.frameByte 0, cmdType := s.frameByte 1, payload := t.payload, check := s.frameByte 30
      calcCrc := frameCrc s, crcMis := decide (frameCrc s ≠ s.frameByte 30)
      expLen := 31#8, actLen := 31#8, err := .ok } ∧
    ∀ k : Fin 7, (t.payload[k]).toNat =
      littleNat (s.frameByte (2 + 4 * k.val)) (s.frameByte (3 + 4 * k.val)) (s.frameByte (4 + 4 * k.val))
        (s.frameByte (5 + 4 * k.val))

/-- R135, R182: DECODE with LEN other than L writes EXP_LEN and ACT_LEN, sets ERR to LENGTH_MISMATCH and changes nothing
else. -/
def Obligations.DecodeOfAWrongLengthIsLengthMismatch : Prop :=
  ∀ s : State,
    (s.rev = .a → s.len ≠ 27#8 → exec .decode s =
      .next { s with expLen := 27#8, actLen := s.len, err := .lengthMismatch }) ∧
    (s.rev = .b → s.len ≠ 31#8 → exec .decode s =
      .next { s with expLen := 31#8, actLen := s.len, err := .lengthMismatch })

/-- R136: ENCODE N then DECODE leaves the message registers as they were after ENCODE, with ERR = 0; under revision B
CRCMIS = 0 and CALC_CRC = CHECK, under revision A CHECK keeps the host's value. -/
def Obligations.EncodeThenDecodeRestoresTheMessage : Prop :=
  ∀ (s : State) (n : Nat), n = (match s.rev with | .a => 6 | .b => 7) →
    ∃ t u, exec (.encode n) s = .next t ∧ exec .decode t = .next u ∧
      u.typeId = t.typeId ∧ u.cmdType = t.cmdType ∧ u.check = t.check ∧
      (∀ k : Fin 7, k.val < n → u.payload[k] = t.payload[k]) ∧ u.err = .ok ∧
      (s.rev = .b → u.crcMis = false ∧ u.calcCrc = u.check) ∧ (s.rev = .a → u.check = s.check)

/-- R141: after a revision B ENCODE, flip any one bit of FRAME[0..31); DECODE then completes with CRCMIS = 1, if P_POLY is
not 0. -/
def Obligations.FlippedFrameBitSetsCrcMis : Prop :=
  ∀ (s : State) (i j : Nat), s.rev = .b → s.params.poly ≠ 0x00#8 → i < 31 → j < 8 →
    ∃ t u, exec (.encode 7) s = .next t ∧
      exec .decode (t.writeFrame i [t.frameByte i ^^^ (1#8 <<< j)]) = .next u ∧
      u.crcMis = true ∧ u.err = .ok

/-- R137: a successful ENCODE sets LEN to 27 under revision A and 31 under revision B. -/
def Obligations.SuccessfulEncodeSetsTheFrameLength : Prop :=
  ∀ (s t : State) (count : Nat), exec (.encode count) s = .next t → t.err = .ok →
    t.len = (match s.rev with | .a => 27#8 | .b => 31#8)

/-- R139: a frame encoded under one revision is LENGTH_MISMATCH when decoded under the other. -/
def Obligations.FrameOfTheOtherRevisionIsRefused : Prop :=
  ∀ (s : State) (n : Nat), n = (match s.rev with | .a => 6 | .b => 7) →
    ∃ t u, exec (.encode n) s = .next t ∧ exec .decode { t with rev := otherRevision s.rev } = .next u ∧
      u.err = .lengthMismatch ∧ u.typeId = t.typeId ∧ u.payload = t.payload

/-- R121: the codec neither reads nor writes CRC and RESULT. -/
def Obligations.CodecIgnoresTheEngineRegisters : Prop :=
  ∀ (s : State) (i : Instr) (x y : Byte), (i = .decode ∨ ∃ n, i = .encode n) →
    exec i { s with crc := x, result := y } =
      mapNext (fun t => { t with crc := x, result := y }) (exec i s) ∧
    ∀ t, exec i s = .next t → t.crc = s.crc ∧ t.result = s.result

/-! ### The serializer and the packer (42_packer.md) -/

/-- R166: `ser32` and `deser32` are inverse, big-endian is the reverse of little-endian, and PACK.W followed by UNPACK.W
leaves PAYLOAD unchanged. -/
def Obligations.SerializerLaws : Prop :=
  (∀ (v : Word) (e : ByteOrder), ∃ b0 b1 b2 b3, ser32 v e = [b0, b1, b2, b3] ∧ deser32 b0 b1 b2 b3 e = v) ∧
  (∀ (b0 b1 b2 b3 : Byte) (e : ByteOrder), ser32 (deser32 b0 b1 b2 b3 e) e = [b0, b1, b2, b3]) ∧
  (∀ v : Word, ser32 v .big = (ser32 v .little).reverse) ∧
  ∀ (s : State) (k off : Nat) (e : ByteOrder), k ≤ 6 → off + 4 ≤ 32 →
    ∃ t u, exec (.packW k off e) s = .next t ∧ exec (.unpackW k off e) t = .next u ∧ u.payload = s.payload

/-- R164: PACK.W in range writes the four bytes of PAYLOAD[k] to FRAME[off..off+4) in the order E, and changes nothing
else; with k > 6 or off + 4 > 32 it is RANGE_ERROR and FRAME is unchanged; with off = 2 + 4k and E = 0 it writes the
bytes that ENCODE writes for element k; its words are those of R164's match and mask. -/
def Obligations.PackWritesFourBytes : Prop :=
  (∀ w : Word, w &&& 0xFE0000FF#32 = 0x00000020#32 ↔
    decodeWord w = .ok (.packW (byteField w 8) (byteField w 16) (orderField w))) ∧
  (∀ (s : State) (n k : Nat), n = (match s.rev with | .a => 6 | .b => 7) → k < n →
    ∃ t u, exec (.encode n) s = .next t ∧ exec (.packW k (2 + 4 * k) .little) s = .next u ∧
      ∀ j, j < 4 → t.frameByte (2 + 4 * k + j) = u.frameByte (2 + 4 * k + j)) ∧
  (∀ (s : State) (k : Fin 7) (off : Nat) (e : ByteOrder), off + 4 ≤ 32 →
    ∃ t, exec (.packW k.val off e) s = .next t ∧ t = { s with frame := t.frame, err := .ok } ∧
      (∀ j, j < 4 → t.frameByte (off + j) =
        byteOf s.payload[k] (match e with | .little => j | .big => 3 - j)) ∧
      sameBytesOutside s t (0xC0 + off) 4) ∧
  ∀ (s : State) (k off : Nat) (e : ByteOrder), 6 < k ∨ 32 < off + 4 →
    exec (.packW k off e) s = .next { s with err := .rangeError }

/-- R165: UNPACK.W in range loads PAYLOAD[k] from FRAME[off..off+4) in the order E, and changes nothing else; with k > 6
or off + 4 > 32 it is RANGE_ERROR and PAYLOAD is unchanged; its words are those of R165's match and mask. -/
def Obligations.UnpackLoadsFourBytes : Prop :=
  (∀ w : Word, w &&& 0xFE0000FF#32 = 0x00000021#32 ↔
    decodeWord w = .ok (.unpackW (byteField w 8) (byteField w 16) (orderField w))) ∧
  (∀ (s : State) (k : Fin 7) (off : Nat) (e : ByteOrder), off + 4 ≤ 32 →
    ∃ t, exec (.unpackW k.val off e) s = .next t ∧ t = { s with payload := t.payload, err := .ok } ∧
      (t.payload[k]).toNat = (match e with
        | .little => littleNat (s.frameByte off) (s.frameByte (off + 1)) (s.frameByte (off + 2)) (s.frameByte (off + 3))
        | .big => littleNat (s.frameByte (off + 3)) (s.frameByte (off + 2)) (s.frameByte (off + 1)) (s.frameByte off)) ∧
      ∀ k' : Fin 7, k' ≠ k → t.payload[k'] = s.payload[k']) ∧
  ∀ (s : State) (k off : Nat) (e : ByteOrder), 6 < k ∨ 32 < off + 4 →
    exec (.unpackW k off e) s = .next { s with err := .rangeError }

/-! ### Errors and STATUS (60_exceptions.md) -/

/-- R184: RANGE_ERROR sets STATUS.ERR and changes nothing else, and no FRAME byte is read: the outcome does not depend on
FRAME. Only a CRC or packer command out of its bounds ends so, whatever STATUS.ERR was before. -/
def Obligations.RangeErrorSetsErrAlone : Prop :=
  (∀ (i : Instr) (s : State), resultCode i s = .rangeError →
    ∀ m, exec i { s with frame := m } = .next { s with frame := m, err := .rangeError }) ∧
  ∀ (i : Instr) (s t : State), exec i s = .next t → t.err = .rangeError →
    resultCode i s = .rangeError ∧
    (opcodeOf i = .crcUpdf ∨ opcodeOf i = .crcCalc ∨ opcodeOf i = .packW ∨ opcodeOf i = .unpackW)

/-- R181: every command completes and leaves its own result code in STATUS.ERR, and no command reads STATUS.ERR; so does
every CMD write, a word that selects no command with ILLEGAL_COMMAND. -/
def Obligations.EveryCommandWritesItsResultCode : Prop :=
  (∀ (i : Instr) (s : State),
    (∃ t, exec i s = .next t ∧ t.err = resultCode i s) ∧ ∀ e, exec i { s with err := e } = exec i s) ∧
  ∀ (s : State) (w : Word), ∃ t, perform s (cmdWrite w) = .next t ∧
    t.err = (match decodeWord w with | .ok i => resultCode i s | .error _ => .illegalCommand) ∧
    ∀ e, perform { s with err := e } (cmdWrite w) = .next t

/-- A command that ends in an error keeps no partial result: at most EXP_LEN and ACT_LEN change, besides ERR (R11). -/
def Obligations.FailedCommandKeepsNoPartialResult : Prop :=
  ∀ (i : Instr) (s t : State), resultCode i s ≠ .ok → exec i s = .next t →
    t = { s with err := t.err, expLen := t.expLen, actLen := t.actLen } ∧
    (t.err = .rangeError → t.expLen = s.expLen ∧ t.actLen = s.actLen)

/-- CRCMIS keeps its value through every command but a DECODE that passes its length check (10_state.md R21). -/
def Obligations.OnlySuccessfulDecodeWritesCrcMis : Prop :=
  ∀ (i : Instr) (s t : State), exec i s = .next t → t.crcMis ≠ s.crcMis → i = .decode ∧ t.err = .ok

/-- No command changes CMD, CONFIG.REV, the constants, the host's lists or the reset epoch: no command changes which
command runs next (10_state.md R22, R32, R37). -/
def Obligations.NoCommandChangesControlState : Prop :=
  ∀ (i : Instr) (s t : State), exec i s = .next t →
    t.cmd = s.cmd ∧ t.rev = s.rev ∧ t.params = s.params ∧ t.pending = s.pending ∧ t.reads = s.reads ∧
    t.epoch = s.epoch

/-- Each register and buffer is written by the commands its rule names only (10_state.md R23 to R35). -/
def Obligations.OnlyTheNamedCommandsWriteEachRegister : Prop :=
  ∀ (i : Instr) (s t : State), exec i s = .next t →
    (t.frame ≠ s.frame → opcodeOf i = .encode ∨ opcodeOf i = .packW) ∧
    (t.payload ≠ s.payload → opcodeOf i = .decode ∨ opcodeOf i = .unpackW) ∧
    (t.typeId ≠ s.typeId ∨ t.cmdType ≠ s.cmdType → opcodeOf i = .decode) ∧
    (t.len ≠ s.len → opcodeOf i = .encode) ∧
    (t.check ≠ s.check → opcodeOf i = .decode ∨ (opcodeOf i = .encode ∧ s.rev = .b)) ∧
    (t.calcCrc ≠ s.calcCrc → (opcodeOf i = .encode ∨ opcodeOf i = .decode) ∧ s.rev = .b) ∧
    (t.expLen ≠ s.expLen ∨ t.actLen ≠ s.actLen → opcodeOf i = .encode ∨ opcodeOf i = .decode) ∧
    (t.crc ≠ s.crc → opcodeOf i = .crcInit ∨ opcodeOf i = .crcUpd8 ∨ opcodeOf i = .crcUpdf ∨
      opcodeOf i = .crcCalc) ∧
    (t.result ≠ s.result → opcodeOf i = .crcFin ∨ opcodeOf i = .crcCalc)

/-! ### The bus (20_memory.md) and the register map (10_state.md) -/

/-- R57: an access that breaks the table of R55, targets a reserved offset or writes a read-only register is a BusError,
recorded as a fault; every other access completes. -/
def Obligations.IllegalAccessIsBusErrorAndLegalCompletes : Prop :=
  ∀ (s : State) (ev : HostEvent),
    (¬ legalEvent ev → perform s ev = .fault .busError) ∧ (legalEvent ev → ∃ t, perform s ev = .next t)

/-- The window is the 256 bus addresses from P_BASE, whatever P_BASE is: each offset has one address, and no other address
is the block's (R50, R53; that P_BASE is a natural number is the model's choice, log 10). -/
def Obligations.WindowIsTheAddressesFromTheBase : Prop :=
  ∀ (addr : Nat) (off : Byte), windowOffset addr = some off ↔ addr = busAddress off

/-- A legal read changes nothing but the list of the values the host's reads returned, and an equal read after it returns
the same value (R58). -/
def Obligations.ReadsHaveNoSideEffect : Prop :=
  ∀ (s : State) (off : Byte) (n : AccessSize), legalAccess off n →
    ∃ v, readsAs s off n v ∧ ∀ t, perform s (.read off n) = .next t → readsAs t off n v

/-- Writing the same value twice, but to CMD, is writing it once (R58). -/
def Obligations.EqualWritesAreIdempotent : Prop :=
  ∀ (s t : State) (off : Byte) (n : AccessSize) (v : Word), off ≠ 0x00#8 →
    perform s (.write off n v) = .next t → perform t (.write off n v) = .next t

/-- The word registers read as the register map says, reserved bits 0 (10_state.md R20 to R34, R39). -/
def Obligations.RegistersReadAsTheMapSays : Prop :=
  ∀ s : State,
    readsAs s 0x00#8 .word s.cmd ∧
    readsAs s 0x04#8 .word (BitVec.ofNat 32
      ((match s.err with | .ok => 0 | .lengthMismatch => 1 | .illegalCommand => 2 | .rangeError => 3) +
        (if s.crcMis then 16 else 0))) ∧
    readsAs s 0x08#8 .word (match s.rev with | .a => 0#32 | .b => 1#32) ∧
    readsAs s 0x0C#8 .word (BitVec.ofNat 32 s.len.toNat) ∧
    readsAs s 0x10#8 .word (BitVec.ofNat 32 s.typeId.toNat) ∧
    readsAs s 0x14#8 .word (BitVec.ofNat 32 s.cmdType.toNat) ∧
    readsAs s 0x18#8 .word (BitVec.ofNat 32 s.check.toNat) ∧
    readsAs s 0x1C#8 .word (BitVec.ofNat 32 s.crc.toNat) ∧
    readsAs s 0x20#8 .word (BitVec.ofNat 32 s.result.toNat) ∧
    readsAs s 0x24#8 .word (BitVec.ofNat 32 s.calcCrc.toNat) ∧
    readsAs s 0x28#8 .word (BitVec.ofNat 32 s.expLen.toNat) ∧
    readsAs s 0x2C#8 .word (BitVec.ofNat 32 s.actLen.toNat) ∧
    readsAs s 0x30#8 .word (BitVec.ofNat 32
      (s.params.poly.toNat + 256 * s.params.init.toNat + 65536 * s.params.xorOut.toNat)) ∧
    (∀ k : Fin 7, readsAs s (BitVec.ofNat 8 (0x40 + 4 * k.val)) .word s.payload[k]) ∧
    ∀ i : Fin 16, readsAs s (BitVec.ofNat 8 (0x80 + 4 * i.val)) .word
      (BitVec.ofNat 32 (Nat.iterate (crcStep s.params.poly) 4 (BitVec.ofNat 8 (16 * i.val))).toNat)

/-- A write to a read-write register stores its field, ignores the reserved bits and changes nothing else
(10_state.md R22 to R27, R33, R39; R58). -/
def Obligations.RegisterWritesStoreTheirFieldAlone : Prop :=
  ∀ (s : State) (v : Word),
    perform s (.write 0x08#8 .word v) =
      .next { s with rev := if v.toNat % 2 = 0 then .a else .b } ∧
    perform s (.write 0x0C#8 .word v) = .next { s with len := BitVec.ofNat 8 v.toNat } ∧
    perform s (.write 0x10#8 .word v) = .next { s with typeId := BitVec.ofNat 8 v.toNat } ∧
    perform s (.write 0x14#8 .word v) = .next { s with cmdType := BitVec.ofNat 8 v.toNat } ∧
    perform s (.write 0x18#8 .word v) = .next { s with check := BitVec.ofNat 8 v.toNat } ∧
    perform s (.write 0x1C#8 .word v) = .next { s with crc := BitVec.ofNat 8 v.toNat } ∧
    ∀ k : Fin 7, perform s (.write (BitVec.ofNat 8 (0x40 + 4 * k.val)) .word v) =
      .next { s with payload := s.payload.set k v }

/-- R59: an aligned FRAME read of n bytes returns them little-endian, and an aligned FRAME write of n bytes stores
them little-endian, changing nothing else. -/
def Obligations.FrameAccessesAreLittleEndian : Prop :=
  ∀ (s : State) (f : Nat) (n : AccessSize), f < 32 → f % accessBytes n = 0 →
    readsAs s (BitVec.ofNat 8 (0xC0 + f)) n (BitVec.ofNat 32
      (match n with
        | .byte => (s.frameByte f).toNat
        | .half => (s.frameByte f).toNat + 256 * (s.frameByte (f + 1)).toNat
        | .word => littleNat (s.frameByte f) (s.frameByte (f + 1)) (s.frameByte (f + 2)) (s.frameByte (f + 3)))) ∧
    ∀ v : Word, ∃ t, perform s (.write (BitVec.ofNat 8 (0xC0 + f)) n v) = .next t ∧
      t = { s with frame := t.frame } ∧
      (∀ j, j < accessBytes n → t.frameByte (f + j) = byteOf v j) ∧
      sameBytesOutside s t (0xC0 + f) (accessBytes n)

/-- A FRAME read sees the last FRAME write to the same bytes (R60): it returns the low 8n bits written. -/
def Obligations.FrameReadReturnsTheLastWrite : Prop :=
  ∀ (s : State) (f : Nat) (n : AccessSize) (v : Word), f < 32 → f % accessBytes n = 0 →
    ∃ t, perform s (.write (BitVec.ofNat 8 (0xC0 + f)) n v) = .next t ∧
      readsAs t (BitVec.ofNat 8 (0xC0 + f)) n (BitVec.ofNat 32 (v.toNat % 2 ^ (8 * accessBytes n)))

/-! ### Reset, agents and invariants -/

/-- The reset event gives every register the reset value of the table and keeps the constants (70_reset_and_hazards.md
R210). That the host's lists stay is the model's choice (log 9); PAYLOAD is not constrained, and no FRAME byte is written. -/
def Obligations.ResetEventRestoresTheTable : Prop :=
  ∀ s : State, ∃ t, perform s .reset = .next t ∧
    t = { cmd := 0#32, err := .ok, crcMis := false, rev := s.params.revReset, len := 0#8, typeId := 0#8
          cmdType := 0#8, check := 0#8, crc := s.params.init, result := s.params.init ^^^ s.params.xorOut
          calcCrc := 0#8, expLen := 0#8, actLen := 0#8, payload := t.payload, frame := t.frame
          params := s.params, epoch := t.epoch, pending := s.pending, reads := s.reads } ∧
    ∀ a, Memory.written t.frame a = none

/-- The state after reset under the spec's default parameters (R210, R5; the defaults are a choice, log 1). -/
def Obligations.ResetStateHoldsTheResetValues : Prop :=
  State.reset.cmd = 0#32 ∧ State.reset.err = .ok ∧ State.reset.crcMis = false ∧ State.reset.rev = .b ∧
  State.reset.len = 0#8 ∧ State.reset.typeId = 0#8 ∧ State.reset.cmdType = 0#8 ∧ State.reset.check = 0#8 ∧
  State.reset.crc = 0x00#8 ∧ State.reset.result = 0x00#8 ∧ State.reset.calcCrc = 0#8 ∧
  State.reset.expLen = 0#8 ∧ State.reset.actLen = 0#8 ∧
  State.reset.params = { poly := 0x07#8, init := 0x00#8, xorOut := 0x00#8, revReset := .b } ∧
  ∀ a, Memory.written State.reset.frame a = none

/-- With no host access pending the block stands still (00_scope.md R14; that this is a step is the model's choice,
log 5). -/
def Obligations.BlockStandsStillWithoutAnAccess : Prop :=
  ∀ s : State, s.pending = [] → step s = .next s

/-- Every step keeps the byte storage in canonical form and inside FRAME, from any state that has it. -/
def Obligations.EveryStepKeepsTheInvariant : Prop :=
  ∀ s t : State, StorageInv s → step s = .next t → StorageInv t

/-- The state after reset meets the invariant. -/
def Obligations.ResetStateMeetsTheInvariant : Prop := StorageInv State.reset

/-- No step changes the constants of the instance (10_state.md R32, R34; held in State, log 1). -/
def Obligations.EveryStepKeepsTheConstants : Prop :=
  ∀ s t : State, step s = .next t → t.params = s.params

/-- A step performs the first pending access, which alone leaves the list, and changes nothing when none is pending. A
read adds its value after those already returned and changes nothing else; a write, its command and a reset add none
(20_memory.md R58, R60, R61; 70_reset_and_hazards.md R216; the two lists are the model's, log 5 and log 8). -/
def Obligations.StepPerformsTheFirstPendingAccess : Prop :=
  ∀ s t : State, step s = .next t →
    (s.pending = [] → t = s) ∧
    ∀ (ev : HostEvent) (rest : List HostEvent), s.pending = ev :: rest →
      performEvent ev { s with pending := rest } = .next t ∧ t.pending = rest ∧
      match ev with
      | .read _ _ => ∃ v, t = { s with pending := rest, reads := s.reads ++ [v] }
      | .write _ _ _ => t.reads = s.reads
      | .reset => t.reads = s.reads

/-- Where every FRAME byte a command reads is written, its outcome does not depend on the free values of unwritten bytes
(R212; the free values are the model's treatment, log 3). -/
def Obligations.WrittenBytesDetermineTheOutcome : Prop :=
  ∀ (i : Instr) (s : State) (e : Nat),
    (∀ b ∈ framesRead i s, Memory.written s.frame (0xC0 + b) ≠ none) →
    exec i { s with epoch := e } = mapNext (fun t => { t with epoch := e }) (exec i s)
end

