-- ==== Sys2Proof/Laws/Decode.lean ====
section
/-! SUPPORT. The fields of a command word (30_encoding.md R70): laying out and splitting are inverse, and so are the
opcode map and its reading. -/

namespace Sys2Proof

theorem fieldsOf_wordOf (f : CommandFields) : fieldsOf (wordOf f) = f := by
  obtain ⟨opc, a, b, e, rsv⟩ := f
  simp only [fieldsOf, wordOf, CommandFields.mk.injEq]
  refine ⟨?_, ?_, ?_, ?_, ?_⟩ <;>
    (ext i hi; simp [BitVec.getElem_extractLsb']; try grind)

theorem wordOf_fieldsOf (w : Word) : wordOf (fieldsOf w) = w := by
  simp only [fieldsOf, wordOf]
  ext i hi
  simp
  grind

theorem opcodeOfByte_byteOfOpcode (op : Opcode) : opcodeOfByte (byteOfOpcode op) = some op := by
  cases op <;> rfl

theorem byteOfOpcode_of_opcodeOfByte {b : Byte} {op : Opcode} (h : opcodeOfByte b = some op) :
    byteOfOpcode op = b := by
  unfold opcodeOfByte at h
  split at h <;> first | (cases h; rfl) | cases h

theorem bitOfByteOrder_byteOrderOfBit (e : BitVec 1) : bitOfByteOrder (byteOrderOfBit e) = e := by
  revert e
  decide

theorem byteOrderOfBit_bitOfByteOrder (o : ByteOrder) : byteOrderOfBit (bitOfByteOrder o) = o := by
  cases o <;> rfl

@[simp] theorem opcodeOf_buildInstr (op : Opcode) (f : CommandFields) : opcodeOf (buildInstr op f) = op := by
  cases op <;> rfl

/-- Everything a successful decoding says about the fields (30_encoding.md R72, R73). -/
theorem decodeFields_ok {f : CommandFields} {i : Instr} (h : decodeFields f = .ok i) :
    ∃ op, opcodeOfByte f.opc = some op ∧ f.rsv = 0#7 ∧ (opcodeUsesA op = false → f.a = 0#8) ∧
      (opcodeUsesB op = false → f.b = 0#8) ∧ (opcodeUsesE op = false → f.e = 0#1) ∧ i = buildInstr op f := by
  unfold decodeFields at h
  split at h
  · cases h
  · rename_i op hop
    split_ifs at h with h1 h2
    cases h
    refine ⟨op, hop, not_not.1 h1, ?_, ?_, ?_, rfl⟩ <;> grind

/-- The fields that decode: an assigned opcode, and every reserved field zero. -/
theorem decodeFields_eq_ok {f : CommandFields} {op : Opcode} (hop : opcodeOfByte f.opc = some op)
    (hr : f.rsv = 0#7) (ha : opcodeUsesA op = false → f.a = 0#8) (hb : opcodeUsesB op = false → f.b = 0#8)
    (he : opcodeUsesE op = false → f.e = 0#1) : decodeFields f = .ok (buildInstr op f) := by
  unfold decodeFields
  rw [hop]
  simp only
  rw [if_neg (by simp [hr]), if_neg (by grind)]

end Sys2Proof
end

