-- ==== Sys2Proof/Laws/Assembler.lean ====
section
/-! SUPPORT. The pieces of a command line (30_encoding.md R77): what two numbers, a byte order and an assembled
command say of the texts they were read from. -/

namespace Sys2Proof.Machine

/-- Assembling answers the encoding of a well-formed command, and nothing else. -/
theorem assemble_eq_some {i : Instr} {w : Word} :
    assemble i = some w ↔ i.wellFormed = true ∧ Sys2Proof.encode i = w := by
  unfold assemble
  split_ifs with h <;> simp [h]

/-- Everything `withNumbers` can answer. -/
theorem withNumbers_eq_some {a b : List Char} {f : Nat → Nat → Instr} {i : Instr}
    (h : withNumbers a b f = some i) :
    ∃ m n, parseNumber a = some m ∧ parseNumber b = some n ∧ i = f m n := by
  unfold withNumbers at h
  split at h
  · rename_i m n hm hn
    exact ⟨m, n, hm, hn, (Option.some.inj h).symm⟩
  · cases h

/-- A text that is a byte order is no number. -/
theorem parseNumber_of_byteOrder {cs : List Char} {o : ByteOrder} (h : parseByteOrder cs = some o) :
    parseNumber cs = none := by
  unfold parseByteOrder at h
  split_ifs at h with h1 h2
  · rw [h1]
    decide
  · rw [h2]
    decide

/-- A command line that parses is its mnemonic's row with its operands. -/
theorem parseCommand_eq_some {text : List Char} {i : Instr} :
    parseCommand text = some i ↔
      ∃ op, parseMnemonic (lineMnemonic text) = some op ∧ parseOperands op (lineOperands text) = some i :=
  Option.bind_eq_some_iff

/-- A command line that assembles is a command that parses and assembles. -/
theorem assembleText_eq_some {text : List Char} {w : Word} :
    assembleText text = some w ↔ ∃ i, parseCommand text = some i ∧ assemble i = some w :=
  Option.bind_eq_some_iff

end Sys2Proof.Machine
end

