-- ==== Sys2Proof/Laws/State.lean ====
section
/-! SUPPORT. One lemma per field per named update of State, true by rfl, so that no later proof unfolds a
record update. -/

namespace Sys2Proof.Machine

/-! `State.setErr` -/

@[simp] theorem State.setErr_cmd (s : State) (e : ErrCode) : (s.setErr e).cmd = s.cmd := rfl
@[simp] theorem State.setErr_err (s : State) (e : ErrCode) : (s.setErr e).err = e := rfl
@[simp] theorem State.setErr_crcMis (s : State) (e : ErrCode) : (s.setErr e).crcMis = s.crcMis := rfl
@[simp] theorem State.setErr_rev (s : State) (e : ErrCode) : (s.setErr e).rev = s.rev := rfl
@[simp] theorem State.setErr_len (s : State) (e : ErrCode) : (s.setErr e).len = s.len := rfl
@[simp] theorem State.setErr_typeId (s : State) (e : ErrCode) : (s.setErr e).typeId = s.typeId := rfl
@[simp] theorem State.setErr_cmdType (s : State) (e : ErrCode) : (s.setErr e).cmdType = s.cmdType := rfl
@[simp] theorem State.setErr_check (s : State) (e : ErrCode) : (s.setErr e).check = s.check := rfl
@[simp] theorem State.setErr_crc (s : State) (e : ErrCode) : (s.setErr e).crc = s.crc := rfl
@[simp] theorem State.setErr_result (s : State) (e : ErrCode) : (s.setErr e).result = s.result := rfl
@[simp] theorem State.setErr_calcCrc (s : State) (e : ErrCode) : (s.setErr e).calcCrc = s.calcCrc := rfl
@[simp] theorem State.setErr_expLen (s : State) (e : ErrCode) : (s.setErr e).expLen = s.expLen := rfl
@[simp] theorem State.setErr_actLen (s : State) (e : ErrCode) : (s.setErr e).actLen = s.actLen := rfl
@[simp] theorem State.setErr_payload (s : State) (e : ErrCode) : (s.setErr e).payload = s.payload := rfl
@[simp] theorem State.setErr_frame (s : State) (e : ErrCode) : (s.setErr e).frame = s.frame := rfl
@[simp] theorem State.setErr_params (s : State) (e : ErrCode) : (s.setErr e).params = s.params := rfl
@[simp] theorem State.setErr_epoch (s : State) (e : ErrCode) : (s.setErr e).epoch = s.epoch := rfl
@[simp] theorem State.setErr_pending (s : State) (e : ErrCode) : (s.setErr e).pending = s.pending := rfl
@[simp] theorem State.setErr_reads (s : State) (e : ErrCode) : (s.setErr e).reads = s.reads := rfl

/-! `State.succeed` -/

@[simp] theorem State.succeed_cmd (s : State) : (s.succeed).cmd = s.cmd := rfl
@[simp] theorem State.succeed_err (s : State) : (s.succeed).err = ErrCode.ok := rfl
@[simp] theorem State.succeed_crcMis (s : State) : (s.succeed).crcMis = s.crcMis := rfl
@[simp] theorem State.succeed_rev (s : State) : (s.succeed).rev = s.rev := rfl
@[simp] theorem State.succeed_len (s : State) : (s.succeed).len = s.len := rfl
@[simp] theorem State.succeed_typeId (s : State) : (s.succeed).typeId = s.typeId := rfl
@[simp] theorem State.succeed_cmdType (s : State) : (s.succeed).cmdType = s.cmdType := rfl
@[simp] theorem State.succeed_check (s : State) : (s.succeed).check = s.check := rfl
@[simp] theorem State.succeed_crc (s : State) : (s.succeed).crc = s.crc := rfl
@[simp] theorem State.succeed_result (s : State) : (s.succeed).result = s.result := rfl
@[simp] theorem State.succeed_calcCrc (s : State) : (s.succeed).calcCrc = s.calcCrc := rfl
@[simp] theorem State.succeed_expLen (s : State) : (s.succeed).expLen = s.expLen := rfl
@[simp] theorem State.succeed_actLen (s : State) : (s.succeed).actLen = s.actLen := rfl
@[simp] theorem State.succeed_payload (s : State) : (s.succeed).payload = s.payload := rfl
@[simp] theorem State.succeed_frame (s : State) : (s.succeed).frame = s.frame := rfl
@[simp] theorem State.succeed_params (s : State) : (s.succeed).params = s.params := rfl
@[simp] theorem State.succeed_epoch (s : State) : (s.succeed).epoch = s.epoch := rfl
@[simp] theorem State.succeed_pending (s : State) : (s.succeed).pending = s.pending := rfl
@[simp] theorem State.succeed_reads (s : State) : (s.succeed).reads = s.reads := rfl

/-! `State.setCrcMis` -/

@[simp] theorem State.setCrcMis_cmd (s : State) (v : Bool) : (s.setCrcMis v).cmd = s.cmd := rfl
@[simp] theorem State.setCrcMis_err (s : State) (v : Bool) : (s.setCrcMis v).err = s.err := rfl
@[simp] theorem State.setCrcMis_crcMis (s : State) (v : Bool) : (s.setCrcMis v).crcMis = v := rfl
@[simp] theorem State.setCrcMis_rev (s : State) (v : Bool) : (s.setCrcMis v).rev = s.rev := rfl
@[simp] theorem State.setCrcMis_len (s : State) (v : Bool) : (s.setCrcMis v).len = s.len := rfl
@[simp] theorem State.setCrcMis_typeId (s : State) (v : Bool) : (s.setCrcMis v).typeId = s.typeId := rfl
@[simp] theorem State.setCrcMis_cmdType (s : State) (v : Bool) : (s.setCrcMis v).cmdType = s.cmdType := rfl
@[simp] theorem State.setCrcMis_check (s : State) (v : Bool) : (s.setCrcMis v).check = s.check := rfl
@[simp] theorem State.setCrcMis_crc (s : State) (v : Bool) : (s.setCrcMis v).crc = s.crc := rfl
@[simp] theorem State.setCrcMis_result (s : State) (v : Bool) : (s.setCrcMis v).result = s.result := rfl
@[simp] theorem State.setCrcMis_calcCrc (s : State) (v : Bool) : (s.setCrcMis v).calcCrc = s.calcCrc := rfl
@[simp] theorem State.setCrcMis_expLen (s : State) (v : Bool) : (s.setCrcMis v).expLen = s.expLen := rfl
@[simp] theorem State.setCrcMis_actLen (s : State) (v : Bool) : (s.setCrcMis v).actLen = s.actLen := rfl
@[simp] theorem State.setCrcMis_payload (s : State) (v : Bool) : (s.setCrcMis v).payload = s.payload := rfl
@[simp] theorem State.setCrcMis_frame (s : State) (v : Bool) : (s.setCrcMis v).frame = s.frame := rfl
@[simp] theorem State.setCrcMis_params (s : State) (v : Bool) : (s.setCrcMis v).params = s.params := rfl
@[simp] theorem State.setCrcMis_epoch (s : State) (v : Bool) : (s.setCrcMis v).epoch = s.epoch := rfl
@[simp] theorem State.setCrcMis_pending (s : State) (v : Bool) : (s.setCrcMis v).pending = s.pending := rfl
@[simp] theorem State.setCrcMis_reads (s : State) (v : Bool) : (s.setCrcMis v).reads = s.reads := rfl

/-! `State.recordLengths` -/

@[simp] theorem State.recordLengths_cmd (s : State) (exp act : Nat) : (s.recordLengths exp act).cmd = s.cmd := rfl
@[simp] theorem State.recordLengths_err (s : State) (exp act : Nat) : (s.recordLengths exp act).err = s.err := rfl
@[simp] theorem State.recordLengths_crcMis (s : State) (exp act : Nat) : (s.recordLengths exp act).crcMis = s.crcMis := rfl
@[simp] theorem State.recordLengths_rev (s : State) (exp act : Nat) : (s.recordLengths exp act).rev = s.rev := rfl
@[simp] theorem State.recordLengths_len (s : State) (exp act : Nat) : (s.recordLengths exp act).len = s.len := rfl
@[simp] theorem State.recordLengths_typeId (s : State) (exp act : Nat) : (s.recordLengths exp act).typeId = s.typeId := rfl
@[simp] theorem State.recordLengths_cmdType (s : State) (exp act : Nat) : (s.recordLengths exp act).cmdType = s.cmdType := rfl
@[simp] theorem State.recordLengths_check (s : State) (exp act : Nat) : (s.recordLengths exp act).check = s.check := rfl
@[simp] theorem State.recordLengths_crc (s : State) (exp act : Nat) : (s.recordLengths exp act).crc = s.crc := rfl
@[simp] theorem State.recordLengths_result (s : State) (exp act : Nat) : (s.recordLengths exp act).result = s.result := rfl
@[simp] theorem State.recordLengths_calcCrc (s : State) (exp act : Nat) : (s.recordLengths exp act).calcCrc = s.calcCrc := rfl
@[simp] theorem State.recordLengths_expLen (s : State) (exp act : Nat) : (s.recordLengths exp act).expLen = BitVec.ofNat 8 exp := rfl
@[simp] theorem State.recordLengths_actLen (s : State) (exp act : Nat) : (s.recordLengths exp act).actLen = BitVec.ofNat 8 act := rfl
@[simp] theorem State.recordLengths_payload (s : State) (exp act : Nat) : (s.recordLengths exp act).payload = s.payload := rfl
@[simp] theorem State.recordLengths_frame (s : State) (exp act : Nat) : (s.recordLengths exp act).frame = s.frame := rfl
@[simp] theorem State.recordLengths_params (s : State) (exp act : Nat) : (s.recordLengths exp act).params = s.params := rfl
@[simp] theorem State.recordLengths_epoch (s : State) (exp act : Nat) : (s.recordLengths exp act).epoch = s.epoch := rfl
@[simp] theorem State.recordLengths_pending (s : State) (exp act : Nat) : (s.recordLengths exp act).pending = s.pending := rfl
@[simp] theorem State.recordLengths_reads (s : State) (exp act : Nat) : (s.recordLengths exp act).reads = s.reads := rfl

/-! `State.writeFrame` -/

@[simp] theorem State.writeFrame_cmd (s : State) (start : Nat) (bs : List Byte) : (s.writeFrame start bs).cmd = s.cmd := rfl
@[simp] theorem State.writeFrame_err (s : State) (start : Nat) (bs : List Byte) : (s.writeFrame start bs).err = s.err := rfl
@[simp] theorem State.writeFrame_crcMis (s : State) (start : Nat) (bs : List Byte) : (s.writeFrame start bs).crcMis = s.crcMis := rfl
@[simp] theorem State.writeFrame_rev (s : State) (start : Nat) (bs : List Byte) : (s.writeFrame start bs).rev = s.rev := rfl
@[simp] theorem State.writeFrame_len (s : State) (start : Nat) (bs : List Byte) : (s.writeFrame start bs).len = s.len := rfl
@[simp] theorem State.writeFrame_typeId (s : State) (start : Nat) (bs : List Byte) : (s.writeFrame start bs).typeId = s.typeId := rfl
@[simp] theorem State.writeFrame_cmdType (s : State) (start : Nat) (bs : List Byte) : (s.writeFrame start bs).cmdType = s.cmdType := rfl
@[simp] theorem State.writeFrame_check (s : State) (start : Nat) (bs : List Byte) : (s.writeFrame start bs).check = s.check := rfl
@[simp] theorem State.writeFrame_crc (s : State) (start : Nat) (bs : List Byte) : (s.writeFrame start bs).crc = s.crc := rfl
@[simp] theorem State.writeFrame_result (s : State) (start : Nat) (bs : List Byte) : (s.writeFrame start bs).result = s.result := rfl
@[simp] theorem State.writeFrame_calcCrc (s : State) (start : Nat) (bs : List Byte) : (s.writeFrame start bs).calcCrc = s.calcCrc := rfl
@[simp] theorem State.writeFrame_expLen (s : State) (start : Nat) (bs : List Byte) : (s.writeFrame start bs).expLen = s.expLen := rfl
@[simp] theorem State.writeFrame_actLen (s : State) (start : Nat) (bs : List Byte) : (s.writeFrame start bs).actLen = s.actLen := rfl
@[simp] theorem State.writeFrame_payload (s : State) (start : Nat) (bs : List Byte) : (s.writeFrame start bs).payload = s.payload := rfl
@[simp] theorem State.writeFrame_frame (s : State) (start : Nat) (bs : List Byte) : (s.writeFrame start bs).frame = Memory.writeList s.frame (frameBase + start) bs := rfl
@[simp] theorem State.writeFrame_params (s : State) (start : Nat) (bs : List Byte) : (s.writeFrame start bs).params = s.params := rfl
@[simp] theorem State.writeFrame_epoch (s : State) (start : Nat) (bs : List Byte) : (s.writeFrame start bs).epoch = s.epoch := rfl
@[simp] theorem State.writeFrame_pending (s : State) (start : Nat) (bs : List Byte) : (s.writeFrame start bs).pending = s.pending := rfl
@[simp] theorem State.writeFrame_reads (s : State) (start : Nat) (bs : List Byte) : (s.writeFrame start bs).reads = s.reads := rfl

/-! `State.writePayload` -/

@[simp] theorem State.writePayload_cmd (s : State) (k : Fin 7) (v : Word) : (s.writePayload k v).cmd = s.cmd := rfl
@[simp] theorem State.writePayload_err (s : State) (k : Fin 7) (v : Word) : (s.writePayload k v).err = s.err := rfl
@[simp] theorem State.writePayload_crcMis (s : State) (k : Fin 7) (v : Word) : (s.writePayload k v).crcMis = s.crcMis := rfl
@[simp] theorem State.writePayload_rev (s : State) (k : Fin 7) (v : Word) : (s.writePayload k v).rev = s.rev := rfl
@[simp] theorem State.writePayload_len (s : State) (k : Fin 7) (v : Word) : (s.writePayload k v).len = s.len := rfl
@[simp] theorem State.writePayload_typeId (s : State) (k : Fin 7) (v : Word) : (s.writePayload k v).typeId = s.typeId := rfl
@[simp] theorem State.writePayload_cmdType (s : State) (k : Fin 7) (v : Word) : (s.writePayload k v).cmdType = s.cmdType := rfl
@[simp] theorem State.writePayload_check (s : State) (k : Fin 7) (v : Word) : (s.writePayload k v).check = s.check := rfl
@[simp] theorem State.writePayload_crc (s : State) (k : Fin 7) (v : Word) : (s.writePayload k v).crc = s.crc := rfl
@[simp] theorem State.writePayload_result (s : State) (k : Fin 7) (v : Word) : (s.writePayload k v).result = s.result := rfl
@[simp] theorem State.writePayload_calcCrc (s : State) (k : Fin 7) (v : Word) : (s.writePayload k v).calcCrc = s.calcCrc := rfl
@[simp] theorem State.writePayload_expLen (s : State) (k : Fin 7) (v : Word) : (s.writePayload k v).expLen = s.expLen := rfl
@[simp] theorem State.writePayload_actLen (s : State) (k : Fin 7) (v : Word) : (s.writePayload k v).actLen = s.actLen := rfl
@[simp] theorem State.writePayload_payload (s : State) (k : Fin 7) (v : Word) : (s.writePayload k v).payload = s.payload.set k v := rfl
@[simp] theorem State.writePayload_frame (s : State) (k : Fin 7) (v : Word) : (s.writePayload k v).frame = s.frame := rfl
@[simp] theorem State.writePayload_params (s : State) (k : Fin 7) (v : Word) : (s.writePayload k v).params = s.params := rfl
@[simp] theorem State.writePayload_epoch (s : State) (k : Fin 7) (v : Word) : (s.writePayload k v).epoch = s.epoch := rfl
@[simp] theorem State.writePayload_pending (s : State) (k : Fin 7) (v : Word) : (s.writePayload k v).pending = s.pending := rfl
@[simp] theorem State.writePayload_reads (s : State) (k : Fin 7) (v : Word) : (s.writePayload k v).reads = s.reads := rfl

/-! `State.logRead` -/

@[simp] theorem State.logRead_cmd (s : State) (v : Word) : (s.logRead v).cmd = s.cmd := rfl
@[simp] theorem State.logRead_err (s : State) (v : Word) : (s.logRead v).err = s.err := rfl
@[simp] theorem State.logRead_crcMis (s : State) (v : Word) : (s.logRead v).crcMis = s.crcMis := rfl
@[simp] theorem State.logRead_rev (s : State) (v : Word) : (s.logRead v).rev = s.rev := rfl
@[simp] theorem State.logRead_len (s : State) (v : Word) : (s.logRead v).len = s.len := rfl
@[simp] theorem State.logRead_typeId (s : State) (v : Word) : (s.logRead v).typeId = s.typeId := rfl
@[simp] theorem State.logRead_cmdType (s : State) (v : Word) : (s.logRead v).cmdType = s.cmdType := rfl
@[simp] theorem State.logRead_check (s : State) (v : Word) : (s.logRead v).check = s.check := rfl
@[simp] theorem State.logRead_crc (s : State) (v : Word) : (s.logRead v).crc = s.crc := rfl
@[simp] theorem State.logRead_result (s : State) (v : Word) : (s.logRead v).result = s.result := rfl
@[simp] theorem State.logRead_calcCrc (s : State) (v : Word) : (s.logRead v).calcCrc = s.calcCrc := rfl
@[simp] theorem State.logRead_expLen (s : State) (v : Word) : (s.logRead v).expLen = s.expLen := rfl
@[simp] theorem State.logRead_actLen (s : State) (v : Word) : (s.logRead v).actLen = s.actLen := rfl
@[simp] theorem State.logRead_payload (s : State) (v : Word) : (s.logRead v).payload = s.payload := rfl
@[simp] theorem State.logRead_frame (s : State) (v : Word) : (s.logRead v).frame = s.frame := rfl
@[simp] theorem State.logRead_params (s : State) (v : Word) : (s.logRead v).params = s.params := rfl
@[simp] theorem State.logRead_epoch (s : State) (v : Word) : (s.logRead v).epoch = s.epoch := rfl
@[simp] theorem State.logRead_pending (s : State) (v : Word) : (s.logRead v).pending = s.pending := rfl
@[simp] theorem State.logRead_reads (s : State) (v : Word) : (s.logRead v).reads = s.reads ++ [v] := rfl

/-! `State.raise`, case by case (60_exceptions.md R182 to R184) -/

@[simp] theorem State.raise_rangeError (s : State) : s.raise .rangeError = s.setErr .rangeError := rfl
@[simp] theorem State.raise_illegalCommand (s : State) : s.raise .illegalCommand = s.setErr .illegalCommand := rfl
@[simp] theorem State.raise_lengthMismatch (s : State) (exp act : Nat) :
    s.raise (.lengthMismatch exp act) = (s.recordLengths exp act).setErr .lengthMismatch := rfl

/-! `State.resetEvent` (70_reset_and_hazards.md R210): what survives, and the free values -/

@[simp] theorem State.resetEvent_params (s : State) : s.resetEvent.params = s.params := rfl
@[simp] theorem State.resetEvent_frame (s : State) : s.resetEvent.frame = [] := rfl
@[simp] theorem State.resetEvent_epoch (s : State) : s.resetEvent.epoch = s.epoch + 1 := rfl
@[simp] theorem State.resetEvent_pending (s : State) : s.resetEvent.pending = s.pending := rfl
@[simp] theorem State.resetEvent_reads (s : State) : s.resetEvent.reads = s.reads := rfl

end Sys2Proof.Machine
end

