-- ==== Sys2Proof/Laws/Memory.lean ====
section
/-! SUPPORT. The laws of the byte storage: a read after a write, the canonical form kept, equal memories are equal
data; and the same laws for FRAME. -/

namespace Sys2Proof.Machine

theorem Memory.written_write (m : Memory) (a b : Nat) (v : Byte) :
    Memory.written (Memory.write m a v) b = if b = a then some v else Memory.written m b := by
  induction m with
  | nil => simp [Memory.write, Memory.written]
  | cons c m ih =>
    obtain ⟨k, u⟩ := c
    simp only [Memory.write]
    split_ifs <;> simp_all [Memory.written]

theorem Memory.read_write (m : Memory) (epoch a b : Nat) (v : Byte) :
    Memory.read (Memory.write m a v) epoch b = if b = a then v else Memory.read m epoch b := by
  unfold Memory.read
  rw [Memory.written_write]
  split_ifs <;> rfl

/-- Every entry of a memory after a write is the entry written or an entry from before. -/
theorem Memory.mem_write {m : Memory} {a : Nat} {v : Byte} {c : Host.Cell} (h : c ∈ Memory.write m a v) :
    c = (a, v) ∨ c ∈ m := by
  induction m with
  | nil => simpa [Memory.write] using h
  | cons d m ih =>
    obtain ⟨k, u⟩ := d
    simp only [Memory.write] at h
    split_ifs at h <;> simp_all <;> tauto

/-- A write at a FRAME offset keeps the canonical form. -/
theorem Memory.write_wf {m : Memory} {a : Nat} {v : Byte} (hm : Memory.wf m)
    (ha : frameBase ≤ a ∧ a < frameBase + frameSize) : Memory.wf (Memory.write m a v) := by
  refine ⟨?_, fun c hc => ?_⟩
  · have hs := hm.1
    clear hm ha
    induction m with
    | nil => simp [Memory.write]
    | cons d m ih =>
      obtain ⟨k, u⟩ := d
      rw [List.pairwise_cons] at hs
      simp only [Memory.write]
      split_ifs with h1 h2
      · refine List.pairwise_cons.2 ⟨fun c hc => ?_, List.pairwise_cons.2 hs⟩
        rcases List.mem_cons.1 hc with rfl | hc
        · exact h1
        · exact Nat.lt_trans h1 (hs.1 c hc)
      · subst h2
        exact List.pairwise_cons.2 hs
      · refine List.pairwise_cons.2 ⟨fun c hc => ?_, ih hs.2⟩
        rcases Memory.mem_write hc with rfl | hc
        · show k < a
          omega
        · exact hs.1 c hc
  · rcases Memory.mem_write hc with rfl | hc
    · exact ha
    · exact hm.2 c hc

/-- A run of writes inside FRAME keeps the canonical form. -/
theorem Memory.writeList_wf {m : Memory} {a : Nat} {bs : List Byte} (hm : Memory.wf m) (ha : frameBase ≤ a)
    (hb : a + bs.length ≤ frameBase + frameSize) : Memory.wf (Memory.writeList m a bs) := by
  induction bs generalizing m a with
  | nil => exact hm
  | cons v vs ih =>
    rw [List.length_cons] at hb
    exact ih (Memory.write_wf hm ⟨ha, by omega⟩) (by omega) (by omega)

theorem Memory.written_writeList (m : Memory) (a b : Nat) (bs : List Byte) :
    Memory.written (Memory.writeList m a bs) b =
      if a ≤ b ∧ b < a + bs.length then bs[b - a]? else Memory.written m b := by
  induction bs generalizing m a with
  | nil => simp [Memory.writeList]
  | cons v vs ih =>
    rw [Memory.writeList, ih, Memory.written_write, List.length_cons]
    by_cases h1 : b = a
    · subst h1
      simp
    · by_cases h2 : a + 1 ≤ b
      · obtain ⟨d, rfl⟩ : ∃ d, b = a + 1 + d := ⟨b - (a + 1), by omega⟩
        have e : a + 1 + d - a = d + 1 := by omega
        simp [h1, e]
        congr 1
        simp only [eq_iff_iff]
        omega
      · rw [if_neg (by omega), if_neg h1, if_neg (by omega)]

theorem Memory.read_writeList (m : Memory) (epoch a b : Nat) (bs : List Byte) :
    Memory.read (Memory.writeList m a bs) epoch b =
      if h : a ≤ b ∧ b < a + bs.length then bs[b - a] else Memory.read m epoch b := by
  unfold Memory.read
  rw [Memory.written_writeList]
  split_ifs with h
  · rw [List.getElem?_eq_getElem (by omega)]
  · rfl

/-- In canonical form a listed entry is what its offset holds. -/
theorem Memory.written_of_mem {m : Memory} (hm : m.Pairwise (fun x y => x.1 < y.1)) {a : Nat} {v : Byte}
    (h : (a, v) ∈ m) : Memory.written m a = some v := by
  induction m with
  | nil => simp at h
  | cons d m ih =>
    obtain ⟨k, u⟩ := d
    rw [List.pairwise_cons] at hm
    rcases List.mem_cons.1 h with h | h
    · cases h
      simp [Memory.written]
    · have : k < a := hm.1 _ h
      simp [Memory.written, show a ≠ k by omega, ih hm.2 h]

theorem Memory.mem_of_written {m : Memory} {a : Nat} {v : Byte} (h : Memory.written m a = some v) :
    (a, v) ∈ m := by
  induction m with
  | nil => simp [Memory.written] at h
  | cons d m ih =>
    obtain ⟨k, u⟩ := d
    simp only [Memory.written] at h
    split_ifs at h with e
    · subst e
      simp_all
    · exact List.mem_cons_of_mem _ (ih h)

/-- Equal memories are equal data: two memories in canonical form that hold the same written bytes are the same list. -/
theorem Memory.ext_of_wf {m m' : Memory} (hm : Memory.wf m) (hm' : Memory.wf m')
    (h : ∀ a, Memory.written m a = Memory.written m' a) : m = m' := by
  have key : ∀ c : Host.Cell, c ∈ m ↔ c ∈ m' := fun c =>
    ⟨fun hc => Memory.mem_of_written ((h c.1) ▸ Memory.written_of_mem hm.1 hc),
     fun hc => Memory.mem_of_written ((h c.1).symm ▸ Memory.written_of_mem hm'.1 hc)⟩
  have irr : ∀ l : Memory, l.Pairwise (fun x y => x.1 < y.1) → l.Nodup := fun l hl =>
    hl.imp (fun hxy hEq => by subst hEq; exact Nat.lt_irrefl _ hxy)
  exact List.Perm.eq_of_pairwise (fun a b _ _ h1 h2 => absurd (Nat.lt_trans h1 h2) (Nat.lt_irrefl _)) hm.1 hm'.1
    ((List.perm_ext_iff_of_nodup (irr m hm.1) (irr m' hm'.1)).2 key)

/-- FRAME after a write of a byte sequence: the bytes written, every other byte as before. -/
theorem State.frameByte_writeFrame (s : State) (start : Nat) (bs : List Byte) (i : Nat) :
    (s.writeFrame start bs).frameByte i =
      if h : start ≤ i ∧ i < start + bs.length then bs[i - start] else s.frameByte i := by
  have e : frameBase + i - (frameBase + start) = i - start := by omega
  unfold State.frameByte
  rw [State.writeFrame_frame, State.writeFrame_epoch, Memory.read_writeList]
  by_cases h : start ≤ i ∧ i < start + bs.length
  · rw [dif_pos h, dif_pos (by omega)]
    simp [e]
  · rw [dif_neg h, dif_neg (by omega)]

@[simp] theorem State.frameBytes_length (s : State) (start count : Nat) :
    (s.frameBytes start count).length = count := by
  simp [State.frameBytes]

end Sys2Proof.Machine
end

