-- ==== Sys2Proof/Laws/Crc.lean ====
section
/-! SUPPORT. The CRC function (40_crc.md): one bit step is linear, Update distributes over append. -/

namespace Sys2Proof.Machine

theorem crcStep_zero (poly : Byte) : crcStep poly 0#8 = 0#8 := by
  simp [crcStep]

/-- One bit step is linear over GF(2) (40_crc.md R107). -/
theorem crcStep_xor (poly x y : Byte) : crcStep poly (x ^^^ y) = crcStep poly x ^^^ crcStep poly y := by
  unfold crcStep
  rw [BitVec.getLsbD_xor]
  cases x.getLsbD 7 <;> cases y.getLsbD 7 <;>
    simp only [BitVec.shiftLeft_xor_distrib, Bool.xor_self, Bool.xor_false, Bool.false_xor, if_true, if_false,
      Bool.false_eq_true]
  · ac_rfl
  · ac_rfl
  · rw [show x <<< 1 ^^^ poly ^^^ (y <<< 1 ^^^ poly) = x <<< 1 ^^^ y <<< 1 ^^^ (poly ^^^ poly) by ac_rfl,
      BitVec.xor_self, BitVec.xor_zero]

@[simp] theorem crcUpdate_nil (poly c : Byte) : crcUpdate poly c [] = c := rfl

@[simp] theorem crcUpdate_cons (poly c d : Byte) (bs : List Byte) :
    crcUpdate poly c (d :: bs) = crcUpdate poly (crc8Upd poly c d) bs := rfl

theorem crcUpdate_append (poly c : Byte) (bs ds : List Byte) :
    crcUpdate poly c (bs ++ ds) = crcUpdate poly (crcUpdate poly c bs) ds := by
  simp [crcUpdate, List.foldl_append]

/-- The range FRAME[start .. start+(m+n)) is the range of m bytes followed by the range of n bytes. -/
theorem State.frameBytes_add (s : State) (start m n : Nat) :
    s.frameBytes start (m + n) = s.frameBytes start m ++ s.frameBytes (start + m) n := by
  simp [State.frameBytes, List.range_add, Nat.add_assoc]

end Sys2Proof.Machine
end

