-- ==== Sys2Proof/Laws/Bus.lean ====
section
/-! SUPPORT. What an access reaches (20_memory.md R55), and what one event of the host and one step can do. -/

namespace Sys2Proof.Machine

/-- An aligned access at a FRAME offset reaches FRAME. -/
theorem locate_frame {off : Byte} {n : AccessSize} (h1 : 0xC0 ≤ off.toNat) (h2 : off.toNat < 0xE0)
    (h3 : off.toNat % n.bytes = 0) : locate off n = some (.frame (off.toNat - 0xC0)) := by
  unfold locate
  rw [if_pos ⟨h1, h2⟩, if_pos h3]

/-- An access that reaches FRAME is aligned and inside it (20_memory.md R55, R56). -/
theorem locate_eq_frame {off : Byte} {n : AccessSize} {i : Nat} (h : locate off n = some (.frame i)) :
    i = off.toNat - 0xC0 ∧ i + n.bytes ≤ frameSize := by
  unfold locate at h
  split_ifs at h with h1 h2 h3
  · simp only [Option.some.injEq, Target.frame.injEq] at h
    simp only [frameBase, frameSize] at h h1 ⊢
    refine ⟨h.symm, ?_⟩
    cases n <;> simp only [AccessSize.bytes] at h2 ⊢ <;> omega
  · cases hr : registerAt off.toNat <;> simp [hr] at h

@[simp] theorem leBytes_length (n : Nat) (v : Word) : (leBytes n v).length = n := by
  simp [leBytes]

/-- Writing a register keeps FRAME, the constants, the host's lists and the epoch. -/
theorem writeRegister_keeps {s t : State} {v : Word} {r : Register} (h : writeRegister s v r = some t) :
    t.frame = s.frame ∧ t.params = s.params ∧ t.pending = s.pending ∧ t.reads = s.reads ∧ t.epoch = s.epoch := by
  cases r <;> first | (cases h; exact ⟨rfl, rfl, rfl, rfl, rfl⟩) | cases h

/-- Everything a write can do, short of the command a CMD write issues (20_memory.md R58): it is inside FRAME, or it
leaves FRAME alone. -/
theorem memWrite_cases {s t : State} {off : Byte} {n : AccessSize} {v : Word} (h : memWrite s off n v = some t) :
    (∃ i, locate off n = some (.frame i) ∧ i + n.bytes ≤ frameSize ∧ t = s.writeFrame i (leBytes n.bytes v)) ∨
    (∃ r, locate off n = some (.register r) ∧ writeRegister s v r = some t) := by
  unfold memWrite at h
  split at h
  · cases h
  · rename_i r hr
    exact .inr ⟨r, hr, h⟩
  · rename_i i hi
    cases h
    exact .inl ⟨i, hi, (locate_eq_frame hi).2, rfl⟩

/-- Everything a CMD word can do: run the command it decodes to, or raise ILLEGAL_COMMAND. -/
theorem runCommand_cases {w : Word} {s t : State} (h : runCommand w s = .next t) :
    (∃ i, decodeWord w = .ok i ∧ exec i s = .next t) ∨ t = s.setErr .illegalCommand := by
  unfold runCommand at h
  split at h
  · rename_i i hi
    exact .inl ⟨i, hi, h⟩
  · cases h
    exact .inr rfl

/-- Everything one event of the host can do. -/
theorem performEvent_cases {ev : HostEvent} {s t : State} (h : performEvent ev s = .next t) :
    (∃ off n v, ev = .read off n ∧ memRead s off n = some v ∧ t = s.logRead v) ∨
    (∃ off n v u, ev = .write off n v ∧ memWrite s off n v = some u ∧
      (t = u ∨ (∃ i, decodeWord v = .ok i ∧ exec i u = .next t) ∨ t = u.setErr .illegalCommand)) ∨
    (ev = .reset ∧ t = s.resetEvent) := by
  cases ev with
  | read off n =>
    simp only [performEvent, performRead] at h
    split at h
    · cases h
    · rename_i v hv
      cases h
      exact .inl ⟨off, n, v, rfl, hv, rfl⟩
  | write off n v =>
    simp only [performEvent, performWrite] at h
    split at h
    · cases h
    · rename_i u hu
      refine .inr (.inl ⟨off, n, v, u, rfl, hu, ?_⟩)
      split_ifs at h
      · exact .inr (runCommand_cases h)
      · cases h
        exact .inl rfl
  | reset =>
    cases h
    exact .inr (.inr ⟨rfl, rfl⟩)

/-- Everything one step can do (20_memory.md R60): stand still, or perform the host's next access. -/
theorem step_cases {s t : State} (h : step s = .next t) :
    (s.pending = [] ∧ t = s) ∨
    (∃ ev rest, s.pending = ev :: rest ∧ performEvent ev { s with pending := rest } = .next t) := by
  unfold step nextAccess at h
  split at h
  · rename_i hp
    cases h
    exact .inl ⟨hp, rfl⟩
  · rename_i ev rest hp
    exact .inr ⟨ev, rest, hp, h⟩

/-- A CMD write stores its word and runs its command (10_state.md R20). -/
theorem performWrite_cmd (w : Word) (s : State) :
    performWrite 0x00#8 .word w s = runCommand w { s with cmd := w } := rfl

end Sys2Proof.Machine
end

