-- ==== Sys2Proof/Laws/Codec.lean ====
section
/-! SUPPORT. The codec's pieces: the geometry, when ENCODE and DECODE pass their length check, the length of the frame
body, the payload after a DECODE; the number a little-endian word is. -/

namespace Sys2Proof.Machine

@[simp] theorem payloadCount_a : payloadCount .a = 6 := rfl
@[simp] theorem payloadCount_b : payloadCount .b = 7 := rfl
@[simp] theorem frameLength_a : frameLength .a = 27 := rfl
@[simp] theorem frameLength_b : frameLength .b = 31 := rfl

/-- `L = 2 + 4N + 1` in both revisions (41_codec.md R130). -/
theorem frameLength_eq (r : Revision) : frameLength r = 2 + 4 * payloadCount r + 1 := by
  cases r <;> rfl

theorem payloadCount_le (r : Revision) : payloadCount r ≤ 7 := by
  cases r <;> decide

theorem execEncode_of_count {count : Nat} {s : State} (h : count = payloadCount s.rev) :
    execEncode count s = .next (encodeFrame (s.recordLengths (payloadCount s.rev) count)) := if_pos h

theorem execEncode_of_wrong_count {count : Nat} {s : State} (h : count ≠ payloadCount s.rev) :
    execEncode count s = .next (s.raise (.lengthMismatch (payloadCount s.rev) count)) := if_neg h

theorem execDecode_of_length {s : State} (h : s.len.toNat = frameLength s.rev) :
    execDecode s = .next (decodeFrame (s.recordLengths (frameLength s.rev) s.len.toNat)) := if_pos h

theorem execDecode_of_wrong_length {s : State} (h : s.len.toNat ≠ frameLength s.rev) :
    execDecode s = .next (s.raise (.lengthMismatch (frameLength s.rev) s.len.toNat)) := if_neg h

/-- The trailing byte under revision A is CHECK, written at FRAME[26] (41_codec.md R134). -/
theorem encodeTrailer_a {s : State} (h : s.rev = .a) : encodeTrailer s = s.writeFrame 26 [s.check] := by
  simp only [encodeTrailer, h, ser8]

/-- The trailing byte under revision B is the CRC, written at FRAME[30], CHECK and CALC_CRC (41_codec.md R134). -/
theorem encodeTrailer_b {s : State} (h : s.rev = .b) {c : Byte} (hc : crcCalculate s.params (s.frameBytes 0 30) = c) :
    encodeTrailer s = { s.writeFrame 30 [c] with check := c, calcCrc := c } := by
  simp only [encodeTrailer, h, hc]

theorem payloadBytes_length (s : State) {n : Nat} (hn : n ≤ 7) : (payloadBytes s n).length = 4 * n := by
  have h : ((s.payload.toList.take n).map fun v => (ser32 v .little).length) =
      (s.payload.toList.take n).map fun _ => 4 := List.map_congr_left fun _ _ => rfl
  rw [payloadBytes, List.length_flatMap, h, List.map_const', List.sum_replicate]
  simp
  omega

theorem frameBody_length (s : State) : (frameBody s).length = 2 + 4 * payloadCount s.rev := by
  simp only [frameBody, List.length_cons, payloadBytes_length s (payloadCount_le s.rev)]
  omega

/-- Recording the lengths touches no message register. -/
@[simp] theorem frameBody_recordLengths (s : State) (exp act : Nat) :
    frameBody (s.recordLengths exp act) = frameBody s := rfl

/-- Byte i of a payload laid out little-endian is byte i mod 4 of element i / 4 (41_codec.md R133). -/
theorem getElem?_flatMap_ser32 (l : List Word) (i : Nat) (h : i < 4 * l.length) :
    (l.flatMap fun v => ser32 v .little)[i]? = some (wordByte (l[i / 4]?.getD 0#32) (i % 4)) := by
  induction l generalizing i with
  | nil => simp at h
  | cons v vs ih =>
    rw [List.flatMap_cons]
    by_cases h4 : i < 4
    · rw [List.getElem?_append_left (by simpa [ser32] using h4)]
      interval_cases i <;> rfl
    · obtain ⟨d, rfl⟩ : ∃ d, i = d + 4 := ⟨i - 4, by omega⟩
      rw [List.getElem?_append_right (by simp [ser32])]
      rw [List.length_cons] at h
      simpa [ser32, show (d + 4) / 4 = d / 4 + 1 by omega, show (d + 4) % 4 = d % 4 by omega] using ih d (by omega)

/-- PAYLOAD[k] after a DECODE (41_codec.md R135): from FRAME for k < N, kept otherwise. -/
theorem getElem_decodedPayload (s : State) (k : Fin 7) :
    (decodedPayload s)[k] =
      if k.val < payloadCount s.rev then s.frameWord (2 + 4 * k.val) .little else s.payload[k] := by
  simp [decodedPayload, payloadOffset]

/-- The number that four bytes deserialize to, least significant first (42_packer.md R162). -/
theorem deser32_little_toNat (b0 b1 b2 b3 : Byte) :
    (deser32 b0 b1 b2 b3 .little).toNat =
      b0.toNat + 256 * b1.toNat + 65536 * b2.toNat + 16777216 * b3.toNat := by
  have h0 := b0.isLt
  have h1 := b1.isLt
  have h2 := b2.isLt
  simp only [deser32, BitVec.toNat_append, Nat.shiftLeft_eq]
  rw [Nat.mul_comm _ (2 ^ 8), Nat.mul_comm _ (2 ^ (8 + 8)), Nat.mul_comm _ (2 ^ (8 + (8 + 8))),
    ← Nat.two_pow_add_eq_or_of_lt (i := 8) (by omega), ← Nat.two_pow_add_eq_or_of_lt (i := 8 + 8) (by omega),
    ← Nat.two_pow_add_eq_or_of_lt (i := 8 + (8 + 8)) (by omega)]
  omega

end Sys2Proof.Machine
end

