-- ==== Sys2Proof/Laws/Exec.lean ====
section
/-! SUPPORT. Everything a command can do, said once: a command error, or one of eight effects. -/

namespace Sys2Proof.Machine

@[simp] theorem ser32_length (v : Word) (e : ByteOrder) : (ser32 v e).length = 4 := by
  cases e <;> rfl

/-- The effects of a command that completes without an error, by the registers they write. -/
inductive Completes (s : State) : Instr → State → Prop
  | nop : Completes s .nop s.succeed
  | crcInit : Completes s .crcInit { s with crc := s.params.init }.succeed
  | crcUpd8 (d : Byte) : Completes s (.crcUpd8 d) { s with crc := crc8Upd s.params.poly s.crc d }.succeed
  | crcUpdf (start count : Nat) (h : start + count ≤ frameSize) : Completes s (.crcUpdf start count)
      { s with crc := crcUpdate s.params.poly s.crc (s.frameBytes start count) }.succeed
  | crcFin : Completes s .crcFin { s with result := crcFinalize s.params s.crc }.succeed
  | crcCalc (start count : Nat) (h : start + count ≤ frameSize) (c : Byte)
      (hc : c = crcUpdate s.params.poly s.params.init (s.frameBytes start count)) :
      Completes s (.crcCalc start count) { s with crc := c, result := crcFinalize s.params c }.succeed
  | encode (count : Nat) (h : count = payloadCount s.rev) : Completes s (.encode count)
      (encodeFrame (s.recordLengths (payloadCount s.rev) count))
  | decode (h : s.len.toNat = frameLength s.rev) : Completes s .decode
      (decodeFrame (s.recordLengths (frameLength s.rev) s.len.toNat))
  | packW (k off : Nat) (e : ByteOrder) (h : packOperandsOk k off) : Completes s (.packW k off e)
      (s.writeFrame off (ser32 (s.payload[k]'h.1) e)).succeed
  | unpackW (k off : Nat) (e : ByteOrder) (h : packOperandsOk k off) : Completes s (.unpackW k off e)
      (s.writePayload ⟨k, h.1⟩ (s.frameWord off e)).succeed

/-- The errors of a command (60_exceptions.md R182, R184). -/
inductive Fails (s : State) : Instr → State → Prop
  | crcUpdf (start count : Nat) (h : frameSize < start + count) :
      Fails s (.crcUpdf start count) (s.setErr .rangeError)
  | crcCalc (start count : Nat) (h : frameSize < start + count) :
      Fails s (.crcCalc start count) (s.setErr .rangeError)
  | packW (k off : Nat) (e : ByteOrder) (h : ¬ packOperandsOk k off) :
      Fails s (.packW k off e) (s.setErr .rangeError)
  | unpackW (k off : Nat) (e : ByteOrder) (h : ¬ packOperandsOk k off) :
      Fails s (.unpackW k off e) (s.setErr .rangeError)
  | encode (count : Nat) (h : count ≠ payloadCount s.rev) : Fails s (.encode count)
      ((s.recordLengths (payloadCount s.rev) count).setErr .lengthMismatch)
  | decode (h : s.len.toNat ≠ frameLength s.rev) : Fails s .decode
      ((s.recordLengths (frameLength s.rev) s.len.toNat).setErr .lengthMismatch)

/-- Everything a command can do. -/
theorem exec_cases {i : Instr} {s t : State} (h : exec i s = .next t) : Completes s i t ∨ Fails s i t := by
  cases i with
  | nop =>
    cases h
    exact .inl .nop
  | crcInit =>
    cases h
    exact .inl .crcInit
  | crcUpd8 d =>
    cases h
    exact .inl (.crcUpd8 d)
  | crcFin =>
    cases h
    exact .inl .crcFin
  | crcUpdf start count =>
    change execCrcUpdf start count s = _ at h
    unfold execCrcUpdf at h
    split_ifs at h with hr
    · cases h
      exact .inl (.crcUpdf start count hr)
    · cases h
      exact .inr (.crcUpdf start count (Nat.lt_of_not_le hr))
  | crcCalc start count =>
    change execCrcCalc start count s = _ at h
    unfold execCrcCalc at h
    split_ifs at h with hr
    · cases h
      exact .inl (.crcCalc start count hr _ rfl)
    · cases h
      exact .inr (.crcCalc start count (Nat.lt_of_not_le hr))
  | encode count =>
    change execEncode count s = _ at h
    by_cases hc : count = payloadCount s.rev
    · rw [execEncode_of_count hc] at h
      cases h
      exact .inl (.encode count hc)
    · rw [execEncode_of_wrong_count hc] at h
      cases h
      exact .inr (.encode count hc)
  | decode =>
    change execDecode s = _ at h
    by_cases hc : s.len.toNat = frameLength s.rev
    · rw [execDecode_of_length hc] at h
      cases h
      exact .inl (.decode hc)
    · rw [execDecode_of_wrong_length hc] at h
      cases h
      exact .inr (.decode hc)
  | packW k off e =>
    change execPackW k off e s = _ at h
    unfold execPackW at h
    split_ifs at h with hr
    · cases h
      exact .inl (.packW k off e hr)
    · cases h
      exact .inr (.packW k off e hr)
  | unpackW k off e =>
    change execUnpackW k off e s = _ at h
    unfold execUnpackW at h
    split_ifs at h with hr
    · cases h
      exact .inl (.unpackW k off e hr)
    · cases h
      exact .inr (.unpackW k off e hr)

/-- What encodeFrame leaves alone (41_codec.md R134). -/
theorem encodeFrame_keeps (s : State) :
    (encodeFrame s).cmd = s.cmd ∧ (encodeFrame s).crcMis = s.crcMis ∧ (encodeFrame s).rev = s.rev ∧
    (encodeFrame s).typeId = s.typeId ∧ (encodeFrame s).cmdType = s.cmdType ∧ (encodeFrame s).crc = s.crc ∧
    (encodeFrame s).result = s.result ∧ (encodeFrame s).expLen = s.expLen ∧ (encodeFrame s).actLen = s.actLen ∧
    (encodeFrame s).payload = s.payload ∧ (encodeFrame s).params = s.params ∧ (encodeFrame s).epoch = s.epoch ∧
    (encodeFrame s).pending = s.pending ∧ (encodeFrame s).reads = s.reads := by
  unfold encodeFrame encodeTrailer
  cases h : s.rev <;> simp [h]

/-- Under revision A encodeFrame leaves CHECK and CALC_CRC alone too (41_codec.md R134). -/
theorem encodeFrame_keeps_a {s : State} (h : s.rev = .a) :
    (encodeFrame s).check = s.check ∧ (encodeFrame s).calcCrc = s.calcCrc := by
  have ha : encodeTrailer (s.writeFrame 0 (frameBody s)) = _ := encodeTrailer_a h
  unfold encodeFrame
  simp [ha]

/-- What decodeFrame leaves alone (41_codec.md R135). -/
theorem decodeFrame_keeps (s : State) :
    (decodeFrame s).cmd = s.cmd ∧ (decodeFrame s).rev = s.rev ∧ (decodeFrame s).len = s.len ∧
    (decodeFrame s).crc = s.crc ∧ (decodeFrame s).result = s.result ∧ (decodeFrame s).expLen = s.expLen ∧
    (decodeFrame s).actLen = s.actLen ∧ (decodeFrame s).frame = s.frame ∧ (decodeFrame s).params = s.params ∧
    (decodeFrame s).epoch = s.epoch ∧ (decodeFrame s).pending = s.pending ∧ (decodeFrame s).reads = s.reads :=
  ⟨rfl, rfl, rfl, rfl, rfl, rfl, rfl, rfl, rfl, rfl, rfl, rfl⟩

end Sys2Proof.Machine
end

