-- ==== Sys2Proof/Laws/PerInstr.lean ====
section
/-! SUPPORT. Statements made per command, as syntax: the word of a command lies in its row of the opcode map
(30_encoding.md R72, R73). -/

namespace Sys2Proof.Laws.EncodedRow

/-- The encoded word carries the row's opcode, and every field the row marks `0`, RSV among them, is 0. -/
def Statement (i : Instr) : Prop :=
  (fieldsOf (Sys2Proof.encode i)).opc = byteOfOpcode (opcodeOf i) ∧
  (fieldsOf (Sys2Proof.encode i)).rsv = 0#7 ∧
  (opcodeUsesA (opcodeOf i) = false → (fieldsOf (Sys2Proof.encode i)).a = 0#8) ∧
  (opcodeUsesB (opcodeOf i) = false → (fieldsOf (Sys2Proof.encode i)).b = 0#8) ∧
  (opcodeUsesE (opcodeOf i) = false → (fieldsOf (Sys2Proof.encode i)).e = 0#1)

/-- It is enough to look at the fields the encoder lays out. -/
theorem of_fields {i : Instr}
    (h : (fieldsOfInstr i).opc = byteOfOpcode (opcodeOf i) ∧ (fieldsOfInstr i).rsv = 0#7 ∧
      (opcodeUsesA (opcodeOf i) = false → (fieldsOfInstr i).a = 0#8) ∧
      (opcodeUsesB (opcodeOf i) = false → (fieldsOfInstr i).b = 0#8) ∧
      (opcodeUsesE (opcodeOf i) = false → (fieldsOfInstr i).e = 0#1)) : Statement i := by
  unfold Statement Sys2Proof.encode
  rw [fieldsOf_wordOf]
  exact h

theorem nop : Statement .nop := of_fields (by simp [fieldsOfInstr, opcodeOf, opcodeUsesA, opcodeUsesB, opcodeUsesE])

theorem crcInit : Statement .crcInit := of_fields (by simp [fieldsOfInstr, opcodeOf, opcodeUsesA, opcodeUsesB, opcodeUsesE])

theorem crcUpd8 (d : Byte) : Statement (.crcUpd8 d) :=
  of_fields (by simp [fieldsOfInstr, opcodeOf, opcodeUsesA, opcodeUsesB, opcodeUsesE])

theorem crcUpdf (start count : Nat) : Statement (.crcUpdf start count) :=
  of_fields (by simp [fieldsOfInstr, opcodeOf, opcodeUsesA, opcodeUsesB, opcodeUsesE])

theorem crcFin : Statement .crcFin := of_fields (by simp [fieldsOfInstr, opcodeOf, opcodeUsesA, opcodeUsesB, opcodeUsesE])

theorem crcCalc (start count : Nat) : Statement (.crcCalc start count) :=
  of_fields (by simp [fieldsOfInstr, opcodeOf, opcodeUsesA, opcodeUsesB, opcodeUsesE])

theorem encode (count : Nat) : Statement (.encode count) :=
  of_fields (by simp [fieldsOfInstr, opcodeOf, opcodeUsesA, opcodeUsesB, opcodeUsesE])

theorem decode : Statement .decode := of_fields (by simp [fieldsOfInstr, opcodeOf, opcodeUsesA, opcodeUsesB, opcodeUsesE])

theorem packW (k off : Nat) (e : ByteOrder) : Statement (.packW k off e) :=
  of_fields (by simp [fieldsOfInstr, opcodeOf, opcodeUsesA, opcodeUsesB, opcodeUsesE])

theorem unpackW (k off : Nat) (e : ByteOrder) : Statement (.unpackW k off e) :=
  of_fields (by simp [fieldsOfInstr, opcodeOf, opcodeUsesA, opcodeUsesB, opcodeUsesE])

end Sys2Proof.Laws.EncodedRow
end

