-- ==== Sys2Proof/Laws/Reference.lean ====
section
/-! SUPPORT. The small lemmas of the terms in Safety.lean: result codes per command, the step of one event, the byte of a
word as the model takes it. -/

namespace Sys2Proof.Safety

open Sys2Proof.Machine

@[simp] theorem resultCode_crcUpdf (start count : Nat) (s : State) :
    resultCode (.crcUpdf start count) s = if 32 < start + count then .rangeError else .ok := rfl

@[simp] theorem resultCode_crcCalc (start count : Nat) (s : State) :
    resultCode (.crcCalc start count) s = if 32 < start + count then .rangeError else .ok := rfl

@[simp] theorem resultCode_packW (k off : Nat) (e : ByteOrder) (s : State) :
    resultCode (.packW k off e) s = if 6 < k ∨ 32 < off + 4 then .rangeError else .ok := rfl

@[simp] theorem resultCode_unpackW (k off : Nat) (e : ByteOrder) (s : State) :
    resultCode (.unpackW k off e) s = if 6 < k ∨ 32 < off + 4 then .rangeError else .ok := rfl

@[simp] theorem mapNext_next (f : State → State) (t : State) : mapNext f (.next t) = .next (f t) := rfl

/-- A step with an event first among the host's accesses performs that event. -/
theorem perform_eq (s : State) (ev : HostEvent) : perform s ev = performEvent ev s := rfl

/-- The byte of a word by shifting is the byte the serializer takes. -/
theorem byteOf_eq_wordByte (v : Word) (j : Nat) : byteOf v j = wordByte v j := by
  simp [wordByte, byteOf, BitVec.extractLsb']
  rfl

theorem accessBytes_eq (n : AccessSize) : accessBytes n = n.bytes := by
  cases n <;> rfl

/-- Bounds of the packer in the form the result code uses. -/
theorem packOperandsOk_iff (k off : Nat) : packOperandsOk k off ↔ ¬ (6 < k ∨ 32 < off + 4) := by
  unfold packOperandsOk payloadRegs frameSize
  omega

end Sys2Proof.Safety
end

