-- ==== Sys2Proof/Tests/Slice0.lean ====
section
/-! SUPPORT. Tests of the model against the spec's own examples and vectors (95_test_vectors.md, 30_encoding.md R79),
and a witness for every statement that has hypotheses. Each expected value is the spec's. -/

namespace Sys2Proof.Tests

open Sys2Proof.Machine Sys2Proof.Safety

/-! ### Helpers -/

/-- A small state: default parameters, PAYLOAD all zero, FRAME unwritten, the given revision. -/
def base (r : Revision) : State :=
  { State.reset with rev := r, payload := Vector.replicate 7 0#32 }

/-- The message of 95_test_vectors.md V-B1 and S1 (PAYLOAD[6] = 0), under the given revision. -/
def message (r : Revision) : State :=
  { base r with
    typeId := 0x01#8
    cmdType := 0x01#8
    payload := #v[0x42960000#32, 0x3F800000#32, 0x00000000#32, 0x42820000#32, 0x40000000#32, 0x40E00000#32, 0#32] }

/-- A state whose FRAME holds "123456789" (95_test_vectors.md section 2), CRC = 0x5A. -/
def digits : State :=
  { (base .b).writeFrame 0 [0x31#8, 0x32#8, 0x33#8, 0x34#8, 0x35#8, 0x36#8, 0x37#8, 0x38#8, 0x39#8] with
    crc := 0x5A#8 }

/-- What `f` says of the next state, if there is one. -/
def after {α : Type} (o : Host.Outcome State Fault Refusal) (f : State → α) : Option α :=
  match o with
  | .next t => some (f t)
  | .fault _ => none
  | .refused _ => none

/-- The outcome is a BusError. -/
def isBusError : Host.Outcome State Fault Refusal → Bool
  | .fault .busError => true
  | .next _ => false
  | .refused _ => false

/-! ### WellFormed: an ill-formed term for each check is refused (30_encoding.md R77) -/

theorem test_wellFormed_crcUpdf_start : (Instr.crcUpdf 256 0).wellFormed = false := by decide
theorem test_wellFormed_crcUpdf_count : (Instr.crcUpdf 0 256).wellFormed = false := by decide
theorem test_wellFormed_crcCalc_start : (Instr.crcCalc 256 0).wellFormed = false := by decide
theorem test_wellFormed_crcCalc_count : (Instr.crcCalc 0 256).wellFormed = false := by decide
theorem test_wellFormed_encode_count : (Instr.encode 256).wellFormed = false := by decide
theorem test_wellFormed_packW_index : (Instr.packW 256 0 .little).wellFormed = false := by decide
theorem test_wellFormed_packW_offset : (Instr.packW 0 256 .big).wellFormed = false := by decide
theorem test_wellFormed_unpackW_index : (Instr.unpackW 256 0 .little).wellFormed = false := by decide
theorem test_wellFormed_unpackW_offset : (Instr.unpackW 0 256 .big).wellFormed = false := by decide
theorem test_wellFormed_limits : (Instr.unpackW 255 255 .big).wellFormed = true := by decide

/-! ### Decoding: words written out bit by bit from 30_encoding.md R72 (RSV, E, B, A, OPC) -/

theorem test_decode_nop : decodeWord 0b0000000_0_00000000_00000000_00000000#32 = .ok .nop := by decide
theorem test_decode_crcInit : decodeWord 0b0000000_0_00000000_00000000_00000001#32 = .ok .crcInit := by decide
theorem test_decode_crcUpd8 :
    decodeWord 0b0000000_0_00000000_10100101_00000010#32 = .ok (.crcUpd8 0xA5#8) := by decide
theorem test_decode_crcUpdf :
    decodeWord 0b0000000_0_00011110_00000001_00000011#32 = .ok (.crcUpdf 1 30) := by decide
theorem test_decode_crcFin : decodeWord 0b0000000_0_00000000_00000000_00000100#32 = .ok .crcFin := by decide
theorem test_decode_crcCalc :
    decodeWord 0b0000000_0_00001001_10000000_00000101#32 = .ok (.crcCalc 128 9) := by decide
theorem test_decode_encode : decodeWord 0b0000000_0_00000000_00000111_00010000#32 = .ok (.encode 7) := by decide
theorem test_decode_decode : decodeWord 0b0000000_0_00000000_00000000_00010001#32 = .ok .decode := by decide
theorem test_decode_packW :
    decodeWord 0b0000000_1_00001110_00000011_00100000#32 = .ok (.packW 3 14 .big) := by decide
theorem test_decode_unpackW :
    decodeWord 0b0000000_0_00011010_00000110_00100001#32 = .ok (.unpackW 6 26 .little) := by decide

/-- 95_test_vectors.md section 5: RSV bit 31, E where it is reserved, A where it is reserved. -/
theorem test_decode_illegal :
    decodeWord 0x80000000#32 = .error .reservedBits ∧ decodeWord 0x01000003#32 = .error .reservedOperand ∧
    decodeWord 0x00010011#32 = .error .reservedOperand := by decide

theorem test_decodeTableWord : decodeTableWord 32 0x011C0020 = some (.packW 0 28 .big) := by decide

/-- 30_encoding.md R77: case-insensitive mnemonics, hexadecimal, the byte order. -/
theorem test_assembleText_pack :
    assembleText ['P', 'a', 'c', 'k', '.', 'W', ' ', '0', ',', ' ', '0', 'x', '1', 'C', ',', ' ', 'b', 'e'] =
      some 0x011C0020#32 := by decide

/-- 30_encoding.md R77: 256 does not fit its field. -/
theorem test_assembleText_wide : assembleText ['E', 'N', 'C', 'O', 'D', 'E', ' ', '2', '5', '6'] = none := by decide

/-! ### Commands (95_test_vectors.md sections 2 to 4) -/

/-- STATUS = 0x13; NOP; STATUS = 0x10. -/
theorem test_nop :
    after (exec .nop { base .b with err := .rangeError, crcMis := true }) statusWord = some 0x10#32 := by decide

theorem test_crcInit : after (exec .crcInit { base .b with crc := 0x5A#8 }) State.crc = some 0x00#8 := by decide

theorem test_crcUpd8 : after (exec (.crcUpd8 0x31#8) (base .b)) State.crc = some 0x97#8 := by decide

/-- crc8_upd(12, 34) = F2. -/
theorem test_crc8Upd : crc8Upd 0x07#8 0x12#8 0x34#8 = 0xF2#8 := by decide

theorem test_crcUpdf :
    after (exec (.crcUpdf 0 9) { digits with crc := 0x00#8 }) State.crc = some 0xF4#8 := by decide +kernel

/-- CRC.UPDF 255, 255: 510 > 32. -/
theorem test_crcUpdf_range :
    after (exec (.crcUpdf 255 255) digits) (fun t => (t.crc, t.err)) = some (0x5A#8, .rangeError) := by decide

theorem test_crcFin : after (exec .crcFin { base .b with crc := 0xF4#8 }) (fun t => (t.result, t.crc)) =
    some (0xF4#8, 0xF4#8) := by decide

theorem test_crcCalc :
    after (exec (.crcCalc 0 9) digits) (fun t => (t.crc, t.result)) = some (0xF4#8, 0xF4#8) := by decide +kernel

theorem test_crcCalc_range : after (exec (.crcCalc 31 2) digits) (fun t => (t.crc, t.err)) =
    some (0x5A#8, .rangeError) := by decide

/-- V-B1: the payload words of FRAME[0..8), the CRC byte 47, LEN = 31. -/
theorem test_encode_b :
    after (exec (.encode 7) (message .b)) (fun t => (t.frameBytes 0 8, t.frameByte 30, t.len, t.check, t.calcCrc)) =
      some ([0x01#8, 0x01#8, 0x00#8, 0x00#8, 0x96#8, 0x42#8, 0x00#8, 0x00#8], 0x47#8, 31#8, 0x47#8, 0x47#8) := by
  decide +kernel

/-- S1: FRAME[22..27) = 00 00 E0 40 00, LEN = 27. -/
theorem test_encode_a :
    after (exec (.encode 6) (message .a)) (fun t => (t.frameBytes 22 5, t.len)) =
      some ([0x00#8, 0x00#8, 0xE0#8, 0x40#8, 0x00#8], 27#8) := by decide

/-- After V-B1 with FRAME[5] ^= 01: CRCMIS = 1, CHECK = 47, CALC_CRC = B5, PAYLOAD[0] = 43960000. -/
theorem test_decode_mismatch :
    after (exec (.encode 7) (message .b))
      (fun t => after (exec .decode (t.writeFrame 5 [0x43#8]))
        (fun u => (u.err, u.crcMis, u.check, u.calcCrc, u.payload[0]))) =
      some (some (.ok, true, 0x47#8, 0xB5#8, 0x43960000#32)) := by decide +kernel

/-- S3: under revision A, LEN = 26 is LENGTH_MISMATCH, 27 expected. -/
theorem test_decode_length :
    after (exec .decode { base .a with len := 26#8 }) (fun t => (t.err, t.expLen, t.actLen)) =
      some (.lengthMismatch, 27#8, 26#8) := by decide

/-- PAYLOAD[0] = 11223344; PACK.W 0, 28, be. -/
theorem test_packW :
    after (exec (.packW 0 28 .big) { base .b with payload := #v[0x11223344#32, 0, 0, 0, 0, 0, 0] })
      (fun t => t.frameBytes 28 4) = some [0x11#8, 0x22#8, 0x33#8, 0x44#8] := by decide

theorem test_packW_range : after (exec (.packW 0 29 .little) (base .b)) State.err = some .rangeError := by decide

/-- FRAME[2..6) = 00 00 96 42; UNPACK.W 0, 2 and UNPACK.W 0, 2, be. -/
theorem test_unpackW :
    after (exec (.unpackW 0 2 .little) ((base .b).writeFrame 2 [0x00#8, 0x00#8, 0x96#8, 0x42#8]))
      (fun t => t.payload[0]) = some 0x42960000#32 := by decide

theorem test_unpackW_big :
    after (exec (.unpackW 0 2 .big) ((base .b).writeFrame 2 [0x00#8, 0x00#8, 0x96#8, 0x42#8]))
      (fun t => t.payload[0]) = some 0x00009642#32 := by decide

/-! ### The bus (95_test_vectors.md section 5, program P4) -/

theorem test_read_param : after (perform (base .b) (.read 0x30#8 .word)) State.reads = some [0x00000007#32] := by
  decide

theorem test_read_crcTable : after (perform (base .b) (.read 0xBC#8 .word)) State.reads = some [0x0000002D#32] := by
  decide

/-- `ld32 0xDC` of FRAME[28..32) = 11 22 33 44 reads 0x44332211. -/
theorem test_read_frame :
    after (perform ((base .b).writeFrame 28 [0x11#8, 0x22#8, 0x33#8, 0x44#8]) (.read 0xDC#8 .word)) State.reads =
      some [0x44332211#32] := by decide

theorem test_busError :
    isBusError (perform (base .b) (.read 0xC1#8 .half)) ∧ isBusError (perform (base .b) (.read 0x10#8 .byte)) ∧
    isBusError (perform (base .b) (.read 0x34#8 .word)) ∧
    isBusError (perform (base .b) (.write 0x04#8 .word 0#32)) := by decide

theorem test_write_config :
    after (perform (base .a) (.write 0x08#8 .word 0xFFFFFFFF#32)) configWord = some 0x00000001#32 := by decide

/-- `st32 0x00, 0x00000012`: CMD = 00000012, ERR = 2. -/
theorem test_illegal_command :
    after (perform (base .b) (.write 0x00#8 .word 0x00000012#32)) (fun t => (t.cmd, t.err)) =
      some (0x00000012#32, .illegalCommand) := by decide

/-- A word given to withFetchWord runs as the first command after reset. -/
theorem test_withFetchWord :
    after (step (State.reset.withFetchWord 32 0x00003102)) (fun t => (t.cmd, t.crc, t.err)) =
      some (0x00003102#32, 0x97#8, .ok) := by decide

/-- `st32 0x08, 0` is `rev a`; a wide operand makes a line an error (30_encoding.md R77, R78). -/
theorem test_expandLine :
    expandLine (.rev .a) = some [.write 0x08#8 .word 0#32] ∧ expandLine (.cmd (.encode 256)) = none ∧
    expandLine (.frame 0 [0xAA#8, 0xBB#8]) =
      some [.write 0xC0#8 .byte 0xAA#32, .write 0xC1#8 .byte 0xBB#32] := by decide

/-! ### Witnesses: for every statement with hypotheses, a state and operands that meet them together -/

theorem witness_DecodeOfEncodeIsTheCommand : (Instr.packW 255 255 .big).wellFormed = true := by decide

theorem witness_DecodedCommandEncodesBackToItsWord :
    decodeWord 0x011C0020#32 = .ok (.packW 0 28 .big) := by decide

theorem witness_WordSelectsExactlyTheMatchingRow : matchesRow 0x01FFFF21#32 .unpackW := by decide

theorem witness_IllegalWordIsStoredAndReported : ∀ op, ¬ matchesRow 0x00000012#32 op := by
  intro op
  cases op <;> decide

/-- The line `CRC.UPD8 0x100`: the first byte that does not fit; and `CRC.UPD8 255`, the last that does. -/
theorem witness_WideOperandIsAnAssemblyError_text :
    (['0', 'x', '1', '0', '0'] ∈
        lineOperands ['C', 'R', 'C', '.', 'U', 'P', 'D', '8', ' ', '0', 'x', '1', '0', '0'] ∧
      parseNumber ['0', 'x', '1', '0', '0'] = some 256 ∧
      parseMnemonic (lineMnemonic ['C', 'R', 'C', '.', 'U', 'P', 'D', '8', ' ', '0', 'x', '1', '0', '0']) =
        some .crcUpd8) ∧
    assembleText ['C', 'R', 'C', '.', 'U', 'P', 'D', '8', ' ', '2', '5', '5'] = some 0x0000FF02#32 := by decide

theorem witness_WideOperandIsAnAssemblyError :
    256 ≤ 256 ∧ assemble (.crcUpdf 255 255) = some 0x00FFFF03#32 := by decide

theorem witness_StepRunsTheDecodedCommand :
    (State.reset.withFetchWord 32 0x00003102).pending = cmdWrite 0x00003102#32 :: [] ∧
    decodeWord 0x00003102#32 = .ok (.crcUpd8 0x31#8) := by decide

/-- The split at the whole sequence, and the two chunks that fill FRAME. -/
theorem witness_UpdateOverChunksIsUpdateOverTheWhole :
    9 ≤ (digits.frameBytes 0 9).length ∧ 0 + (4 + 28) ≤ 32 := by decide

/-- The last bit of the last byte. -/
theorem witness_SingleBitFlipChangesTheChecksum :
    Params.defaults.poly ≠ 0x00#8 ∧ 8 < (digits.frameBytes 0 9).length ∧ 7 < 8 := by decide

theorem witness_EmptyRangeGivesTheEmptyChecksum : 32 ≤ 32 := by decide

/-- A word with OPC 0x00 and a nonzero field. -/
theorem witness_NopClearsErrAlone : byteField 0x01000000#32 0 = 0 ∧ 0x01000000#32 ≠ (0x00000000#32 : Word) := by decide

theorem witness_CrcUpd8FoldsItsByte : (0x5A#8 : Byte) = digits.crc := by decide

/-- 31 + 1 = 32 is in range, 32 + 1 is not. -/
theorem witness_CrcUpdfFoldsTheFrameRange : 31 + 1 ≤ 32 ∧ 32 < 32 + 1 := by decide

theorem witness_CrcFinWritesTheChecksum : (base .b).params.xorOut = 0x00#8 := by decide

theorem witness_CrcCalcWritesCrcAndResult : 31 + 1 ≤ 32 ∧ 32 < 32 + 1 := by decide

theorem witness_EncodeRevisionALaysOutTheFrame : (message .a).rev = .a := by decide

theorem witness_EncodeRevisionBLaysOutTheFrame : (message .b).rev = .b := by decide

theorem witness_EncodeOfAWrongCountIsLengthMismatch :
    ((message .a).rev = .a ∧ 7 ≠ 6 ∧ 7 < 256) ∧ ((message .b).rev = .b ∧ 6 ≠ 7 ∧ 6 < 256) := by decide

theorem witness_DecodeRevisionALoadsTheMessage :
    ({ base .a with len := 27#8 } : State).rev = .a ∧ ({ base .a with len := 27#8 } : State).len = 27#8 := by decide

theorem witness_DecodeRevisionBLoadsTheMessage :
    ({ base .b with len := 31#8 } : State).rev = .b ∧ ({ base .b with len := 31#8 } : State).len = 31#8 := by decide

theorem witness_DecodeOfAWrongLengthIsLengthMismatch :
    ((base .a).rev = .a ∧ (base .a).len ≠ 27#8) ∧ ((base .b).rev = .b ∧ (base .b).len ≠ 31#8) := by decide

theorem witness_EncodeThenDecodeRestoresTheMessage :
    6 = (match (message .a).rev with | .a => 6 | .b => 7) ∧ 7 = (match (message .b).rev with | .a => 6 | .b => 7) := by
  decide

/-- The last bit of the trailing byte. -/
theorem witness_FlippedFrameBitSetsCrcMis :
    (message .b).rev = .b ∧ (message .b).params.poly ≠ 0x00#8 ∧ 30 < 31 ∧ 7 < 8 := by decide

/-- The next state named by its own fields, both revisions. -/
theorem witness_SuccessfulEncodeSetsTheFrameLength :
    (∃ t, exec (.encode 6) (message .a) = .next t ∧ t.err = .ok) ∧
    (∃ t, exec (.encode 7) (message .b) = .next t ∧ t.err = .ok) :=
  ⟨⟨_, rfl, rfl⟩, ⟨_, rfl, rfl⟩⟩

theorem witness_FrameOfTheOtherRevisionIsRefused :
    6 = (match (message .a).rev with | .a => 6 | .b => 7) ∧ 7 = (match (message .b).rev with | .a => 6 | .b => 7) := by
  decide

theorem witness_CodecIgnoresTheEngineRegisters :
    (Instr.decode = .decode ∨ ∃ n, Instr.decode = .encode n) ∧ (Instr.encode 7 = .decode ∨ ∃ n, Instr.encode 7 = .encode n) ∧
    ∃ t, exec (.encode 7) (message .b) = .next t :=
  ⟨.inl rfl, .inr ⟨7, rfl⟩, ⟨_, rfl⟩⟩

theorem witness_SerializerLaws : 6 ≤ 6 ∧ 28 + 4 ≤ 32 := by decide

/-- The last legal offset and the first illegal one, the first illegal index. -/
theorem witness_PackWritesFourBytes : 28 + 4 ≤ 32 ∧ (6 < 0 ∨ 32 < 29 + 4) ∧ (6 < 7 ∨ 32 < 0 + 4) := by decide

theorem witness_UnpackLoadsFourBytes :
    28 + 4 ≤ 32 ∧ (1 : Fin 7) ≠ 0 ∧ (6 < 0 ∨ 32 < 29 + 4) ∧ (6 < 7 ∨ 32 < 0 + 4) := by decide

theorem witness_PackWritesFourBytes_encode :
    (6 = (match (message .a).rev with | .a => 6 | .b => 7) ∧ 5 < 6) ∧
    (7 = (match (message .b).rev with | .a => 6 | .b => 7) ∧ 6 < 7) := by decide

theorem witness_RangeErrorSetsErrAlone :
    resultCode (.crcUpdf 32 1) (base .b) = .rangeError ∧ resultCode (.crcCalc 0 33) (base .b) = .rangeError ∧
    resultCode (.packW 7 0 .little) (base .b) = .rangeError ∧
    resultCode (.unpackW 0 29 .big) (base .b) = .rangeError := by decide

/-- RANGE_ERROR as the answer of exec, from ERR = 0 and from ERR = 3. -/
theorem witness_RangeErrorSetsErrAlone_exec :
    (∃ t, exec (.crcUpdf 32 1) (base .b) = .next t ∧ t.err = .rangeError) ∧
    (∃ t, exec (.packW 7 0 .little) { base .b with err := .rangeError } = .next t ∧ t.err = .rangeError) :=
  ⟨⟨_, rfl, rfl⟩, ⟨_, rfl, rfl⟩⟩

theorem witness_FailedCommandKeepsNoPartialResult :
    resultCode (.encode 6) (message .b) ≠ .ok ∧ (∃ t, exec (.encode 6) (message .b) = .next t) ∧
    resultCode (.crcUpdf 33 0) (message .b) ≠ .ok ∧
    (∃ t, exec (.crcUpdf 33 0) (message .b) = .next t ∧ t.err = .rangeError) :=
  ⟨by decide, ⟨_, rfl⟩, by decide, ⟨_, rfl, rfl⟩⟩

/-- A revision A DECODE clears a CRCMIS that was set. -/
theorem witness_OnlySuccessfulDecodeWritesCrcMis :
    ∃ t, exec .decode { base .a with len := 27#8, crcMis := true } = .next t ∧ t.crcMis ≠ true :=
  ⟨_, rfl, by decide⟩

theorem witness_NoCommandChangesControlState : ∃ t, exec .nop (base .a) = .next t := ⟨_, rfl⟩

/-- ENCODE writes FRAME, LEN, CHECK, CALC_CRC and the length registers. -/
theorem witness_OnlyTheNamedCommandsWriteEachRegister_encode :
    ∃ t, exec (.encode 7) (message .b) = .next t ∧ t.frame ≠ (message .b).frame ∧ t.len ≠ (message .b).len ∧
      t.check ≠ (message .b).check ∧ t.calcCrc ≠ (message .b).calcCrc ∧ t.expLen ≠ (message .b).expLen :=
  ⟨_, rfl, by decide +kernel, by decide +kernel, by decide +kernel, by decide +kernel, by decide +kernel⟩

/-- UNPACK.W writes PAYLOAD. -/
theorem witness_OnlyTheNamedCommandsWriteEachRegister_unpackW :
    after (exec (.unpackW 1 0 .little) digits) (fun t => decide (t.payload ≠ digits.payload)) = some true := by decide

/-- CRC.CALC writes CRC and RESULT. -/
theorem witness_OnlyTheNamedCommandsWriteEachRegister_crcCalc :
    after (exec (.crcCalc 0 9) digits) (fun t => decide (t.crc ≠ digits.crc) && decide (t.result ≠ digits.result)) =
      some true := by decide +kernel

/-- DECODE writes TYPEID. -/
theorem witness_OnlyTheNamedCommandsWriteEachRegister_decode :
    after (exec .decode ({ base .a with len := 27#8 }.writeFrame 0 [0x81#8]))
      (fun t => decide (t.typeId ≠ (base .a).typeId)) = some true := by decide

theorem witness_IllegalAccessIsBusErrorAndLegalCompletes :
    ¬ legalAccess 0xE0#8 .byte ∧ ¬ legalAccess 0x34#8 .word ∧ legalAccess 0xDF#8 .byte ∧ legalAccess 0x30#8 .word ∧
    readOnlyOffset 0x30#8 := by decide

theorem witness_ReadsHaveNoSideEffect : legalAccess 0x58#8 .word ∧ legalAccess 0xDC#8 .word := by decide

theorem witness_EqualWritesAreIdempotent :
    (0xDE#8 : Byte) ≠ 0x00#8 ∧ ∃ t, perform (base .b) (.write 0xDE#8 .half 0x1234#32) = .next t :=
  ⟨by decide, ⟨_, rfl⟩⟩

theorem witness_FrameAccessesAreLittleEndian :
    (31 < 32 ∧ 31 % accessBytes .byte = 0) ∧ (30 < 32 ∧ 30 % accessBytes .half = 0) ∧
    (28 < 32 ∧ 28 % accessBytes .word = 0) := by decide

theorem witness_FrameReadReturnsTheLastWrite : 28 < 32 ∧ 28 % accessBytes .word = 0 := by decide

theorem witness_BlockStandsStillWithoutAnAccess : State.reset.pending = [] := by decide

/-- A state with a written FRAME that meets the invariant and steps. -/
theorem witness_EveryStepKeepsTheInvariant :
    StorageInv (digits.withFetchWord 32 0x001C0020) ∧
    ∃ t, step (digits.withFetchWord 32 0x001C0020) = .next t :=
  ⟨by decide, ⟨_, rfl⟩⟩

theorem witness_EveryStepKeepsTheConstants : ∃ t, step State.reset = .next t := ⟨_, rfl⟩

/-- No access, a read, a command and a reset, each with an access after it. -/
theorem witness_StepPerformsTheFirstPendingAccess :
    (∃ t, step (base .b) = .next t) ∧
    (∃ t, step { base .b with pending := [.read 0x30#8 .word, .reset] } = .next t) ∧
    (∃ t, step { base .b with pending := [cmdWrite 0x00000004#32, .reset] } = .next t) ∧
    (∃ t, step { base .b with pending := [.reset, .reset] } = .next t) :=
  ⟨⟨_, rfl⟩, ⟨_, rfl⟩, ⟨_, rfl⟩, ⟨_, rfl⟩⟩

theorem witness_WrittenBytesDetermineTheOutcome :
    ∀ b ∈ framesRead (.crcCalc 0 9) digits, Memory.written digits.frame (0xC0 + b) ≠ none := by decide

end Sys2Proof.Tests
end

/-! The scope family (00_scope.md): what a command that ends in an error leaves, and the step with no access pending. -/

namespace Sys2Proof.Safety

open Sys2Proof.Machine

/-- ENCODE's result code by the geometry of the revision (41_codec.md R130, R134). -/
theorem resultCode_encode (count : Nat) (s : State) :
    resultCode (.encode count) s = if count = payloadCount s.rev then .ok else .lengthMismatch := by
  unfold resultCode
  cases s.rev <;> rfl

/-- DECODE's result code by the geometry of the revision (41_codec.md R130, R135). -/
theorem resultCode_decode (s : State) :
    resultCode .decode s = if s.len.toNat = frameLength s.rev then .ok else .lengthMismatch := by
  unfold resultCode
  cases s.rev <;> exact if_congr BitVec.toNat_inj.symm rfl rfl

/-- A command whose operands pass its checks has the result code 0 (60_exceptions.md R181). -/
theorem resultCode_of_completes {s t : State} {i : Instr} (h : Completes s i t) : resultCode i s = .ok := by
  cases h with
  | nop => rfl
  | crcInit => rfl
  | crcUpd8 => rfl
  | crcFin => rfl
  | crcUpdf _ _ hr => exact if_neg (Nat.not_lt_of_le hr)
  | crcCalc _ _ hr => exact if_neg (Nat.not_lt_of_le hr)
  | encode _ hc => exact (resultCode_encode _ s).trans (if_pos hc)
  | decode hl => exact (resultCode_decode s).trans (if_pos hl)
  | packW k off _ hp => exact if_neg ((packOperandsOk_iff k off).1 hp)
  | unpackW k off _ hp => exact if_neg ((packOperandsOk_iff k off).1 hp)

/-- The frame of a failed command (60_exceptions.md R182, R184): RANGE_ERROR writes ERR alone, LENGTH_MISMATCH also
EXP_LEN and ACT_LEN. -/
theorem fails_frame {s t : State} {i : Instr} (h : Fails s i t) :
    t = s.setErr .rangeError ∨ ∃ exp act, t = (s.recordLengths exp act).setErr .lengthMismatch := by
  cases h with
  | crcUpdf => exact .inl rfl
  | crcCalc => exact .inl rfl
  | packW => exact .inl rfl
  | unpackW => exact .inl rfl
  | encode => exact .inr ⟨_, _, rfl⟩
  | decode => exact .inr ⟨_, _, rfl⟩

/-- Settles O37: a command with an error code does not complete, and a failure has the frame of `fails_frame`. -/
theorem failedCommandKeepsNoPartialResult : Obligations.FailedCommandKeepsNoPartialResult := by
  intro i s t hcode h
  have hfail : Fails s i t := (exec_cases h).resolve_left fun hc => hcode (resultCode_of_completes hc)
  obtain rfl | ⟨exp, act, rfl⟩ := fails_frame hfail
  · exact ⟨rfl, fun _ => ⟨rfl, rfl⟩⟩
  · exact ⟨rfl, fun hrange => nomatch hrange⟩

/-- Settles O51: the step takes the branch of the empty list of accesses (log 5). -/
theorem blockStandsStillWithoutAnAccess : Obligations.BlockStandsStillWithoutAnAccess := by
  intro s hp
  unfold step nextAccess
  rw [hp]

end Sys2Proof.Safety

/-! The state family (10_state.md): what each command writes, the canonical byte storage, and what a host access to each
word register reads and stores. -/

namespace Sys2Proof.Safety

open Sys2Proof.Machine

/-! ### What a command writes -/

/-- The effects of a command by the registers they write: the engine's registers, FRAME, PAYLOAD, the codec's own
effects, and the two errors (10_state.md R23 to R35, 60_exceptions.md R182, R184). -/
inductive Footprint (s : State) : Instr → State → Prop
  | engine (i : Instr) (c r : Byte)
      (hcrc : c ≠ s.crc →
        opcodeOf i = .crcInit ∨ opcodeOf i = .crcUpd8 ∨ opcodeOf i = .crcUpdf ∨ opcodeOf i = .crcCalc)
      (hresult : r ≠ s.result → opcodeOf i = .crcFin ∨ opcodeOf i = .crcCalc) :
      Footprint s i { s with crc := c, result := r }.succeed
  | encode (count exp act : Nat) : Footprint s (.encode count) (encodeFrame (s.recordLengths exp act))
  | decode (exp act : Nat) : Footprint s .decode (decodeFrame (s.recordLengths exp act))
  | packW (k off : Nat) (e : ByteOrder) (bs : List Byte) (hin : off + bs.length ≤ frameSize) :
      Footprint s (.packW k off e) (s.writeFrame off bs).succeed
  | unpackW (k off : Nat) (e : ByteOrder) (j : Fin 7) (v : Word) :
      Footprint s (.unpackW k off e) (s.writePayload j v).succeed
  | rangeError (i : Instr) : Footprint s i (s.setErr .rangeError)
  | lengthMismatch (i : Instr) (exp act : Nat) (hi : opcodeOf i = .encode ∨ opcodeOf i = .decode) :
      Footprint s i ((s.recordLengths exp act).setErr .lengthMismatch)

theorem footprint_of_completes {s t : State} {i : Instr} (h : Completes s i t) : Footprint s i t := by
  cases h with
  | nop => exact .engine _ s.crc s.result (absurd rfl) (absurd rfl)
  | crcInit => exact .engine _ _ s.result (fun _ => .inl rfl) (absurd rfl)
  | crcUpd8 => exact .engine _ _ s.result (fun _ => .inr (.inl rfl)) (absurd rfl)
  | crcUpdf => exact .engine _ _ s.result (fun _ => .inr (.inr (.inl rfl))) (absurd rfl)
  | crcFin => exact .engine _ s.crc _ (absurd rfl) (fun _ => .inl rfl)
  | crcCalc => exact .engine _ _ _ (fun _ => .inr (.inr (.inr rfl))) (fun _ => .inr rfl)
  | encode => exact .encode _ _ _
  | decode => exact .decode _ _
  | packW _ _ _ hp => exact .packW _ _ _ _ (by simpa using hp.2)
  | unpackW => exact .unpackW _ _ _ _ _

theorem footprint_of_fails {s t : State} {i : Instr} (h : Fails s i t) : Footprint s i t := by
  cases h with
  | crcUpdf => exact .rangeError _
  | crcCalc => exact .rangeError _
  | packW => exact .rangeError _
  | unpackW => exact .rangeError _
  | encode => exact .lengthMismatch _ _ _ (.inl rfl)
  | decode => exact .lengthMismatch _ _ _ (.inr rfl)

/-- Every command has one of the footprints, whether it completes or fails. -/
theorem footprint_of_exec {s t : State} {i : Instr} (h : exec i s = .next t) : Footprint s i t :=
  (exec_cases h).elim footprint_of_completes footprint_of_fails

/-! ### The invariant -/

/-- Writing bytes inside FRAME keeps the byte storage canonical. -/
theorem storageInv_writeFrame {s : State} {start : Nat} {bs : List Byte} (hs : StorageInv s)
    (hin : start + bs.length ≤ frameSize) : StorageInv (s.writeFrame start bs) :=
  Memory.writeList_wf hs (Nat.le_add_right _ _) (by omega)

/-- The trailing byte lands at FRAME[26] or FRAME[30], inside FRAME (41_codec.md R134). -/
theorem storageInv_encodeTrailer {s : State} (hs : StorageInv s) : StorageInv (encodeTrailer s) := by
  cases hrev : s.rev with
  | a =>
    rw [encodeTrailer_a hrev]
    exact storageInv_writeFrame hs (by simp [frameSize])
  | b =>
    rw [encodeTrailer_b hrev rfl]
    exact storageInv_writeFrame (start := 30) (bs := [_]) hs (by simp [frameSize])

/-- The body is at most 30 bytes from FRAME[0], in either revision (41_codec.md R131, R132). -/
theorem storageInv_encodeFrame {s : State} (hs : StorageInv s) : StorageInv (encodeFrame s) := by
  have hbody : 0 + (frameBody s).length ≤ frameSize := by
    have hcount := payloadCount_le s.rev
    rw [frameBody_length]
    unfold frameSize
    omega
  exact storageInv_encodeTrailer (storageInv_writeFrame hs hbody)

/-- Only ENCODE and PACK.W write FRAME, both inside it. -/
theorem storageInv_of_exec {s t : State} {i : Instr} (h : exec i s = .next t) (hs : StorageInv s) : StorageInv t := by
  cases footprint_of_exec h with
  | encode => exact storageInv_encodeFrame hs
  | packW _ _ _ _ hin => exact storageInv_writeFrame hs hin
  | engine => exact hs
  | decode => exact hs
  | unpackW => exact hs
  | rangeError => exact hs
  | lengthMismatch => exact hs

/-- A legal host write is inside FRAME or leaves it alone (20_memory.md R53, R55). -/
theorem storageInv_of_memWrite {s t : State} {off : Byte} {n : AccessSize} {v : Word}
    (h : memWrite s off n v = some t) (hs : StorageInv s) : StorageInv t := by
  obtain ⟨i, -, hin, rfl⟩ | ⟨r, -, hw⟩ := memWrite_cases h
  · exact storageInv_writeFrame hs (by simpa using hin)
  · obtain ⟨hframe, -⟩ := writeRegister_keeps hw
    unfold StorageInv
    rwa [hframe]

theorem storageInv_of_performEvent {s t : State} {ev : HostEvent} (h : performEvent ev s = .next t)
    (hs : StorageInv s) : StorageInv t := by
  obtain ⟨_, _, _, -, -, rfl⟩ | ⟨_, _, _, u, -, hu, hcmd⟩ | ⟨-, rfl⟩ := performEvent_cases h
  · exact hs
  · have hinv := storageInv_of_memWrite hu hs
    obtain rfl | ⟨i, -, hex⟩ | rfl := hcmd
    · exact hinv
    · exact storageInv_of_exec hex hinv
    · exact hinv
  · exact ⟨List.Pairwise.nil, fun _ hc => nomatch hc⟩

/-- Settles O52: standing still changes nothing, and every event of the host keeps the storage. -/
theorem everyStepKeepsTheInvariant : Obligations.EveryStepKeepsTheInvariant := by
  intro s t hs h
  obtain ⟨-, rfl⟩ | ⟨ev, rest, -, hev⟩ := step_cases h
  · exact hs
  · exact storageInv_of_performEvent hev hs

/-! ### What a command leaves unchanged -/

/-- Settles O38: of all the footprints DECODE's alone writes CRCMIS (10_state.md R21). -/
theorem onlySuccessfulDecodeWritesCrcMis : Obligations.OnlySuccessfulDecodeWritesCrcMis := by
  intro i s t h hne
  cases footprint_of_exec h with
  | decode => exact ⟨rfl, rfl⟩
  | encode count exp act =>
    obtain ⟨-, hcrcMis, -⟩ := encodeFrame_keeps (s.recordLengths exp act)
    exact absurd hcrcMis hne
  | engine => exact absurd rfl hne
  | packW => exact absurd rfl hne
  | unpackW => exact absurd rfl hne
  | rangeError => exact absurd rfl hne
  | lengthMismatch => exact absurd rfl hne

/-- Settles O39: no footprint holds a control register, a constant, a list of the host or the epoch. -/
theorem noCommandChangesControlState : Obligations.NoCommandChangesControlState := by
  intro i s t h
  cases footprint_of_exec h with
  | encode count exp act =>
    obtain ⟨hcmd, -, hrev, -, -, -, -, -, -, -, hparams, hepoch, hpending, hreads⟩ :=
      encodeFrame_keeps (s.recordLengths exp act)
    exact ⟨hcmd, hrev, hparams, hpending, hreads, hepoch⟩
  | engine => exact ⟨rfl, rfl, rfl, rfl, rfl, rfl⟩
  | decode => exact ⟨rfl, rfl, rfl, rfl, rfl, rfl⟩
  | packW => exact ⟨rfl, rfl, rfl, rfl, rfl, rfl⟩
  | unpackW => exact ⟨rfl, rfl, rfl, rfl, rfl, rfl⟩
  | rangeError => exact ⟨rfl, rfl, rfl, rfl, rfl, rfl⟩
  | lengthMismatch => exact ⟨rfl, rfl, rfl, rfl, rfl, rfl⟩

/-- ENCODE writes CHECK and CALC_CRC under revision B only (41_codec.md R134). -/
theorem rev_b_of_encodeFrame_writes {s : State}
    (h : (encodeFrame s).check ≠ s.check ∨ (encodeFrame s).calcCrc ≠ s.calcCrc) : s.rev = .b := by
  cases hrev : s.rev with
  | a =>
    obtain ⟨hcheck, hcalcCrc⟩ := encodeFrame_keeps_a hrev
    exact absurd h (by simp [hcheck, hcalcCrc])
  | b => rfl

/-- DECODE writes CALC_CRC under revision B only (41_codec.md R135). -/
theorem rev_b_of_decodeFrame_writes {s : State} (h : (decodeFrame s).calcCrc ≠ s.calcCrc) : s.rev = .b := by
  cases hrev : s.rev with
  | a => exact absurd (by simp [decodeFrame, decodedCalcCrc, hrev]) h
  | b => rfl

/-- Settles O40: each footprint writes the registers of its own command, and CHECK and CALC_CRC stay under revision A
where the rule names revision B. -/
theorem onlyTheNamedCommandsWriteEachRegister : Obligations.OnlyTheNamedCommandsWriteEachRegister := by
  intro i s t h
  cases footprint_of_exec h with
  | engine _ c r hcrc hresult => simpa using And.intro hcrc hresult
  | packW => simp [opcodeOf]
  | unpackW => simp [opcodeOf]
  | rangeError => simp
  | lengthMismatch _ exp act hi => simp [hi]
  | encode count exp act =>
    obtain ⟨-, -, -, htypeId, hcmdType, hcrc, hresult, -, -, hpayload, -⟩ :=
      encodeFrame_keeps (s.recordLengths exp act)
    have hcheck := fun h => rev_b_of_encodeFrame_writes (s := s.recordLengths exp act) (.inl h)
    have hcalcCrc := fun h => rev_b_of_encodeFrame_writes (s := s.recordLengths exp act) (.inr h)
    simpa [opcodeOf, htypeId, hcmdType, hcrc, hresult, hpayload] using And.intro hcheck hcalcCrc
  | decode exp act =>
    obtain ⟨-, -, hlen, hcrc, hresult, -, -, hframe, -⟩ := decodeFrame_keeps (s.recordLengths exp act)
    have hcalcCrc := rev_b_of_decodeFrame_writes (s := s.recordLengths exp act)
    simpa [opcodeOf, hlen, hcrc, hresult, hframe] using hcalcCrc

/-! ### The constants -/

/-- A host write, less its command, keeps the constants. -/
theorem params_of_memWrite {s t : State} {off : Byte} {n : AccessSize} {v : Word}
    (h : memWrite s off n v = some t) : t.params = s.params := by
  obtain ⟨i, -, -, rfl⟩ | ⟨r, -, hw⟩ := memWrite_cases h
  · rfl
  · obtain ⟨-, hparams, -⟩ := writeRegister_keeps hw
    exact hparams

theorem params_of_performEvent {s t : State} {ev : HostEvent} (h : performEvent ev s = .next t) :
    t.params = s.params := by
  obtain ⟨_, _, _, -, -, rfl⟩ | ⟨_, _, _, u, -, hu, hcmd⟩ | ⟨-, rfl⟩ := performEvent_cases h
  · rfl
  · have hparams := params_of_memWrite hu
    obtain rfl | ⟨i, -, hex⟩ | rfl := hcmd
    · exact hparams
    · obtain ⟨-, -, hkept, -⟩ := noCommandChangesControlState i u t hex
      exact hkept.trans hparams
    · exact hparams
  · rfl

/-- Settles O54: standing still changes nothing, and every event of the host keeps the constants. -/
theorem everyStepKeepsTheConstants : Obligations.EveryStepKeepsTheConstants := by
  intro s t h
  obtain ⟨-, rfl⟩ | ⟨ev, rest, -, hev⟩ := step_cases h
  · rfl
  · exact (params_of_performEvent hev).trans rfl

/-! ### The host's accesses to the word registers -/

/-- Settles O7: the access is a CMD write, so the step stores the word and runs the command it decodes to. -/
theorem stepRunsTheDecodedCommand : Obligations.StepRunsTheDecodedCommand := by
  intro s w rest i hpending hw
  calc step s = performEvent (cmdWrite w) { s with pending := rest } := by
        unfold step nextAccess
        rw [hpending]
    _ = runCommand w { s with pending := rest, cmd := w } := performWrite_cmd w _
    _ = exec i { s with pending := rest, cmd := w } := by
        unfold runCommand
        rw [hw]

/-- A 32-bit read at a register's offset returns the register's value (20_memory.md R58). -/
theorem readsAs_register {s : State} {off : Byte} {r : Register} {v : Word}
    (hr : locate off .word = some (.register r)) (hv : readRegister s r = v) : readsAs s off .word v := by
  have hmem : memRead s off .word = some v := by simp [memRead, hr, hv]
  unfold readsAs
  rw [perform_eq]
  simp [performEvent, performRead, hmem, State.logRead]

/-- A 32-bit write at the offset of a register other than CMD stores into it alone (20_memory.md R58). -/
theorem perform_write_register {s t : State} {v : Word} {off : Byte} {r : Register}
    (hr : locate off .word = some (.register r)) (hcmd : r ≠ .cmd) (hw : writeRegister s v r = some t) :
    perform s (.write off .word v) = .next t := by
  have hissues : issuesCommand off .word = false := by simp [issuesCommand, hr, hcmd]
  have hmem : memWrite s off .word v = some t := by simp [memWrite, hr, hw]
  rw [perform_eq]
  simp [performEvent, performWrite, hmem, hissues]

/-- PAYLOAD[k] is at offset 0x40 + 4k (10_state.md R33). -/
theorem locate_payload : ∀ k : Fin 7,
    locate (BitVec.ofNat 8 (0x40 + 4 * k.val)) .word = some (.register (.payload k)) := by
  decide

/-- CRC_TABLE[i] is at offset 0x80 + 4i (10_state.md R34). -/
theorem locate_crcTable : ∀ i : Fin 16,
    locate (BitVec.ofNat 8 (0x80 + 4 * i.val)) .word = some (.register (.crcTable (BitVec.ofNat 4 i.val))) := by
  decide

/-- ERR is the number in bits 3:0 and CRCMIS is worth 16 (10_state.md R21). -/
theorem statusWord_eq (s : State) : statusWord s = BitVec.ofNat 32
    ((match s.err with | .ok => 0 | .lengthMismatch => 1 | .illegalCommand => 2 | .rangeError => 3) +
      (if s.crcMis then 16 else 0)) := by
  unfold statusWord
  cases s.err <;> cases s.crcMis <;> rfl

/-- PARAM is the number with digits P_POLY, P_INIT, P_XOROUT in base 256 (10_state.md R32). -/
theorem paramWord_eq (p : Params) :
    paramWord p = BitVec.ofNat 32 (p.poly.toNat + 256 * p.init.toNat + 65536 * p.xorOut.toNat) := by
  have hbytes : paramWord p = deser32 p.poly p.init p.xorOut 0#8 .little :=
    BitVec.setWidth_eq_append (by decide)
  apply BitVec.eq_of_toNat_eq
  rw [hbytes, deser32_little_toNat, BitVec.toNat_ofNat, BitVec.toNat_ofNat]
  omega

/-- CRC_TABLE[i] is four bit steps from the nibble i in the high half (10_state.md R34, 40_crc.md R101). -/
theorem readRegister_crcTable (s : State) (i : Fin 16) :
    readRegister s (.crcTable (BitVec.ofNat 4 i.val)) =
      BitVec.ofNat 32 (Nat.iterate (crcStep s.params.poly) 4 (BitVec.ofNat 8 (16 * i.val))).toNat := by
  have hhigh : ∀ i : Fin 16, (BitVec.ofNat 4 i.val).setWidth 8 <<< 4 = BitVec.ofNat 8 (16 * i.val) := by decide
  change (crcTable _ _).setWidth 32 = _
  unfold crcTable
  rw [hhigh, BitVec.ofNat_toNat]
  rfl

/-- REV is bit 0 of the word written to CONFIG (10_state.md R22). -/
theorem revisionOfWord_eq (v : Word) : revisionOfWord v = if v.toNat % 2 = 0 then .a else .b := by
  have hbit : v.getLsbD 0 = true ↔ ¬ v.toNat % 2 = 0 := by
    rw [BitVec.getLsbD, Nat.testBit_zero, decide_eq_true_iff, Nat.mod_two_not_eq_zero]
  simp only [revisionOfWord, hbit, ite_not]

/-- Settles O45: each offset is its register's, and each register's value is the map's number. -/
theorem registersReadAsTheMapSays : Obligations.RegistersReadAsTheMapSays := fun s =>
  ⟨readsAs_register (r := .cmd) rfl rfl,
    readsAs_register (r := .status) rfl (statusWord_eq s),
    readsAs_register (r := .config) rfl rfl,
    readsAs_register (r := .len) rfl (BitVec.ofNat_toNat ..).symm,
    readsAs_register (r := .typeId) rfl (BitVec.ofNat_toNat ..).symm,
    readsAs_register (r := .cmdType) rfl (BitVec.ofNat_toNat ..).symm,
    readsAs_register (r := .check) rfl (BitVec.ofNat_toNat ..).symm,
    readsAs_register (r := .crc) rfl (BitVec.ofNat_toNat ..).symm,
    readsAs_register (r := .result) rfl (BitVec.ofNat_toNat ..).symm,
    readsAs_register (r := .calcCrc) rfl (BitVec.ofNat_toNat ..).symm,
    readsAs_register (r := .expLen) rfl (BitVec.ofNat_toNat ..).symm,
    readsAs_register (r := .actLen) rfl (BitVec.ofNat_toNat ..).symm,
    readsAs_register (r := .param) rfl (paramWord_eq s.params),
    fun k => readsAs_register (locate_payload k) rfl,
    fun i => readsAs_register (locate_crcTable i) (readRegister_crcTable s i)⟩

/-- Settles O46: each offset is its register's, and `writeRegister` sets that register's field. -/
theorem registerWritesStoreTheirFieldAlone : Obligations.RegisterWritesStoreTheirFieldAlone := by
  intro s v
  simp only [← revisionOfWord_eq, BitVec.ofNat_toNat]
  exact ⟨perform_write_register (r := .config) rfl nofun rfl, perform_write_register (r := .len) rfl nofun rfl,
    perform_write_register (r := .typeId) rfl nofun rfl, perform_write_register (r := .cmdType) rfl nofun rfl,
    perform_write_register (r := .check) rfl nofun rfl, perform_write_register (r := .crc) rfl nofun rfl,
    fun k => perform_write_register (locate_payload k) nofun rfl⟩

end Sys2Proof.Safety

/-! The memory family (20_memory.md): which accesses are legal, what a repeated access does, FRAME accesses as
little-endian numbers, and the host's two lists. -/

namespace Sys2Proof.Machine

/-! ### Repeated writes of the byte storage -/

/-- A byte written twice is as written once, in any memory: the second write finds the first's entry. -/
theorem Memory.write_write_same (m : Memory) (a : Nat) (v : Byte) :
    Memory.write (Memory.write m a v) a v = Memory.write m a v := by
  induction m with
  | nil => simp [Memory.write]
  | cons c m ih =>
    obtain ⟨k, u⟩ := c
    rcases Nat.lt_trichotomy a k with ha | rfl | ha
    · simp [Memory.write, ha]
    · simp [Memory.write]
    · simp [Memory.write, Nat.not_lt_of_lt ha, Nat.ne_of_gt ha, ih]

/-- Writes at two offsets commute as data, in any memory: each stops at the first entry not below its offset. -/
theorem Memory.write_comm (m : Memory) {a b : Nat} (v u : Byte) (h : a < b) :
    Memory.write (Memory.write m b u) a v = Memory.write (Memory.write m a v) b u := by
  have hlt : ¬ b < a := Nat.not_lt_of_lt h
  have hne : b ≠ a := Nat.ne_of_gt h
  induction m with
  | nil => simp [Memory.write, h, hlt, hne]
  | cons c m ih =>
    obtain ⟨k, w⟩ := c
    rcases Nat.lt_trichotomy a k with ha | rfl | ha
    · simp only [Memory.write, if_pos ha, if_neg hlt, if_neg hne]
      split_ifs <;> simp [Memory.write, ha, h]
    · simp [Memory.write, hlt, hne]
    · have hb : k < b := Nat.lt_trans ha h
      simp [Memory.write, Nat.not_lt_of_lt ha, Nat.ne_of_gt ha, Nat.not_lt_of_lt hb, Nat.ne_of_gt hb, ih]

/-- A write below a run of writes commutes with it. -/
theorem Memory.write_writeList_comm (m : Memory) {a b : Nat} (v : Byte) (bs : List Byte) (h : a < b) :
    Memory.write (Memory.writeList m b bs) a v = Memory.writeList (Memory.write m a v) b bs := by
  induction bs generalizing m b with
  | nil => rfl
  | cons u us ih =>
    simp only [Memory.writeList]
    rw [ih _ (Nat.lt_succ_of_lt h), Memory.write_comm m v u h]

/-- A run of bytes written twice is as written once, in any memory. -/
theorem Memory.writeList_writeList_same (m : Memory) (a : Nat) (bs : List Byte) :
    Memory.writeList (Memory.writeList m a bs) a bs = Memory.writeList m a bs := by
  induction bs generalizing m a with
  | nil => rfl
  | cons v vs ih =>
    simp only [Memory.writeList]
    rw [Memory.write_writeList_comm _ v vs (Nat.lt_succ_self a), Memory.write_write_same, ih]

/-! ### Little-endian words (20_memory.md R59) -/

/-- The sum of R59 is the number with the bytes as digits in base 256, the first least significant. -/
theorem leWord_eq_ofDigits (bs : List Byte) : leWord bs = BitVec.ofNat 32 (Nat.ofDigits 256 (bs.map BitVec.toNat)) := by
  induction bs with
  | nil => rfl
  | cons b bs ih =>
    have hdisjoint : b.setWidth 32 &&& (leWord bs <<< 8) = 0#32 := by
      refine BitVec.eq_of_getLsbD_eq fun i hi => ?_
      by_cases h8 : i < 8
      · simp [h8]
      · simp [BitVec.getLsbD_of_ge b i (Nat.le_of_not_lt h8)]
    rw [leWord, ← BitVec.add_eq_or_of_and_eq_zero _ _ hdisjoint, ih]
    apply BitVec.eq_of_toNat_eq
    simp [Nat.ofDigits_cons, Nat.shiftLeft_eq]
    omega

/-- The low n bytes of a word are the digits of its low 8n bits. -/
theorem leWord_leBytes (n : Nat) (v : Word) : leWord (leBytes n v) = BitVec.ofNat 32 (v.toNat % 2 ^ (8 * n)) := by
  rw [leWord_eq_ofDigits]
  congr 1
  induction n with
  | zero => simp [leBytes, Nat.mod_one]
  | succ n ih =>
    have hsucc : leBytes (n + 1) v = leBytes n v ++ [wordByte v n] := by simp [leBytes, List.range_succ]
    have hpow : 2 ^ (8 * (n + 1)) = 2 ^ (8 * n) * 256 := Nat.pow_add 2 (8 * n) 8
    rw [hsucc, List.map_append, Nat.ofDigits_append, ih, hpow, Nat.mod_mul]
    simp [wordByte, Nat.shiftRight_eq_div_pow, Nat.pow_mul]

theorem State.frameBytes_writeFrame (s : State) (f : Nat) (bs : List Byte) :
    (s.writeFrame f bs).frameBytes f bs.length = bs := by
  apply List.ext_getElem
  · simp
  · intro i h₁ h₂
    simp [State.frameBytes, State.frameByte_writeFrame, h₂]

end Sys2Proof.Machine

namespace Sys2Proof.Safety

open Sys2Proof.Machine

/-! ### Reads and writes as steps -/

theorem perform_read {s : State} {off : Byte} {n : AccessSize} {v : Word} (h : memRead s off n = some v) :
    readsAs s off n v := by
  unfold readsAs
  rw [perform_eq]
  simp [performEvent, performRead, h, State.logRead]

theorem perform_read_busError {s : State} {off : Byte} {n : AccessSize} (h : memRead s off n = none) :
    perform s (.read off n) = .fault .busError := by
  rw [perform_eq]
  simp [performEvent, performRead, h]

/-- A write that reaches its target stores, and then runs the command if it stored into CMD (20_memory.md R61). -/
theorem perform_write {s t : State} {off : Byte} {n : AccessSize} {v : Word} (h : memWrite s off n v = some t) :
    perform s (.write off n v) = if issuesCommand off n then runCommand v t else .next t := by
  rw [perform_eq]
  simp [performEvent, performWrite, h]

theorem perform_write_busError {s : State} {off : Byte} {n : AccessSize} {v : Word} (h : memWrite s off n v = none) :
    perform s (.write off n v) = .fault .busError := by
  rw [perform_eq]
  simp [performEvent, performWrite, h]

/-! ### The legal accesses (20_memory.md R55 to R57) -/

/-- The window offset of a register (10_state.md section 1). -/
def registerOffset : Register → Nat
  | .cmd => 0x00
  | .status => 0x04
  | .config => 0x08
  | .len => 0x0C
  | .typeId => 0x10
  | .cmdType => 0x14
  | .check => 0x18
  | .crc => 0x1C
  | .result => 0x20
  | .calcCrc => 0x24
  | .expLen => 0x28
  | .actLen => 0x2C
  | .param => 0x30
  | .payload k => 0x40 + 4 * k.val
  | .crcTable i => 0x80 + 4 * i.toNat

theorem registerAt_low_isSome_iff : ∀ off < 0x40, off % 4 = 0 → ((registerAt off).isSome ↔ off ≤ 0x30) := by
  decide

/-- The aligned offsets below FRAME that are not reserved (10_state.md R36). -/
theorem registerAt_isSome_iff {off : Nat} (halign : off % 4 = 0) :
    (registerAt off).isSome ↔ off ≤ 0x30 ∨ (0x40 ≤ off ∧ off ≤ 0x58) ∨ (0x80 ≤ off ∧ off ≤ 0xBC) := by
  by_cases hlow : off < 0x40
  · rw [registerAt_low_isSome_iff off hlow halign]
    omega
  · unfold registerAt
    rw [if_neg hlow]
    split_ifs <;> simp <;> omega

theorem offset_of_registerAt {off : Nat} {r : Register} (halign : off % 4 = 0) (h : registerAt off = some r) :
    off = registerOffset r := by
  unfold registerAt at h
  split_ifs at h with hlow hpayload htable
  · split at h <;> cases h <;> rfl
  · cases h
    simp only [registerOffset]
    omega
  · cases h
    simp only [registerOffset, BitVec.toNat_ofNat]
    omega

theorem offset_of_locate_register {off : Byte} {n : AccessSize} {r : Register}
    (h : locate off n = some (.register r)) : off.toNat = registerOffset r := by
  unfold locate at h
  split_ifs at h with hframe halign hword
  · cases h
  · obtain ⟨-, halign⟩ := hword
    obtain ⟨r', hr', he⟩ := Option.map_eq_some_iff.1 h
    cases he
    exact offset_of_registerAt halign hr'

/-- An access reaches something exactly when the table of R55 allows it and its offset is not reserved. -/
theorem locate_isSome_iff (off : Byte) (n : AccessSize) : (locate off n).isSome ↔ legalAccess off n := by
  unfold locate legalAccess
  rw [accessBytes_eq]
  simp only [frameBase, frameSize]
  split_ifs with hframe halign hword
  · simp [halign]
    omega
  · simp [halign]
    omega
  · rw [Option.isSome_map, registerAt_isSome_iff hword.2]
    obtain ⟨hn, ha⟩ := hword
    simp only [hn, ha, true_and]
    omega
  · simp only [Option.isSome_none, Bool.false_eq_true, false_iff]
    rintro (⟨hn, ha, -⟩ | ⟨hlow, hhigh, -⟩)
    · exact hword ⟨hn, ha⟩
    · omega

theorem frameBase_le_of_locate_frame {off : Byte} {n : AccessSize} {i : Nat} (h : locate off n = some (.frame i)) :
    frameBase ≤ off.toNat := by
  by_contra hbelow
  unfold locate at h
  rw [if_neg (fun hframe => hbelow hframe.1)] at h
  split_ifs at h
  obtain ⟨_, -, he⟩ := Option.map_eq_some_iff.1 h
  cases he

/-- Only the read-only registers refuse a write (20_memory.md R57(c)). -/
theorem writeRegister_isSome_iff (s : State) (v : Word) {off : Byte} {n : AccessSize} {r : Register}
    (h : locate off n = some (.register r)) : (writeRegister s v r).isSome ↔ ¬ readOnlyOffset off := by
  unfold readOnlyOffset
  rw [offset_of_locate_register h]
  cases r with
  | payload k =>
    simp only [writeRegister, registerOffset, Option.isSome_some, true_iff]
    omega
  | crcTable i =>
    simp only [writeRegister, registerOffset, Option.isSome_none, Bool.false_eq_true, false_iff]
    omega
  | _ => simp [writeRegister, registerOffset]

theorem memRead_isSome_iff (s : State) (off : Byte) (n : AccessSize) :
    (memRead s off n).isSome ↔ legalAccess off n := by
  rw [← locate_isSome_iff]
  unfold memRead
  split
  next hl => simp [hl]
  next hl => simp [hl]
  next hl => simp [hl]

theorem memWrite_isSome_iff (s : State) (off : Byte) (n : AccessSize) (v : Word) :
    (memWrite s off n v).isSome ↔ legalAccess off n ∧ ¬ readOnlyOffset off := by
  rw [← locate_isSome_iff]
  unfold memWrite
  split
  next hl => simp [hl]
  next r hl => simpa [hl] using writeRegister_isSome_iff s v hl
  next i hl =>
    have hframe := frameBase_le_of_locate_frame hl
    simp only [hl, Option.isSome_some, true_and, true_iff]
    unfold readOnlyOffset
    unfold frameBase at hframe
    omega

/-! ### Every command and every CMD write completes -/

theorem exec_completes (i : Instr) (s : State) : ∃ t, exec i s = .next t := by
  cases i with
  | nop | crcInit | crcUpd8 | crcFin => exact ⟨_, rfl⟩
  | crcUpdf | crcCalc =>
    simp only [exec, execCrcUpdf, execCrcCalc]
    split <;> exact ⟨_, rfl⟩
  | encode | decode =>
    simp only [exec, execEncode, execDecode]
    split <;> exact ⟨_, rfl⟩
  | packW | unpackW =>
    simp only [exec, execPackW, execUnpackW]
    split <;> exact ⟨_, rfl⟩

theorem runCommand_completes (w : Word) (s : State) : ∃ t, runCommand w s = .next t := by
  unfold runCommand
  split
  next i _ => exact exec_completes i s
  next => exact ⟨_, rfl⟩

/-- Settles O41: an event is legal exactly when its access reaches a target that takes it, and a CMD write's command
always completes. -/
theorem illegalAccessIsBusErrorAndLegalCompletes : Obligations.IllegalAccessIsBusErrorAndLegalCompletes := by
  intro s ev
  cases ev with
  | read off n =>
    simp only [legalEvent, ← memRead_isSome_iff s]
    cases hr : memRead s off n with
    | none => exact ⟨fun _ => perform_read_busError hr, nofun⟩
    | some v => exact ⟨fun hnot => absurd rfl hnot, fun _ => ⟨_, perform_read hr⟩⟩
  | write off n v =>
    simp only [legalEvent, ← memWrite_isSome_iff s off n v]
    cases hw : memWrite s off n v with
    | none => exact ⟨fun _ => perform_write_busError hw, nofun⟩
    | some t =>
      refine ⟨fun hnot => absurd rfl hnot, fun _ => ?_⟩
      rw [perform_write hw]
      split
      · exact runCommand_completes v t
      · exact ⟨t, rfl⟩
  | reset => exact ⟨fun hnot => absurd trivial hnot, fun _ => ⟨_, rfl⟩⟩

/-! ### The window (20_memory.md R50, R53) -/

/-- Settles O42: inside the window the offset is the distance from P_BASE, which is below 256. -/
theorem windowIsTheAddressesFromTheBase : Obligations.WindowIsTheAddressesFromTheBase := by
  intro addr off
  have hoff := off.isLt
  unfold windowOffset busAddress
  split_ifs with hin
  · rw [Option.some.injEq, ← BitVec.toNat_inj, BitVec.toNat_ofNat]
    omega
  · simp only [false_iff]
    omega

/-! ### Repeated accesses (20_memory.md R58) -/

/-- The list of values read is no input of a read. -/
theorem memRead_logRead (s : State) (w : Word) (off : Byte) (n : AccessSize) :
    memRead (s.logRead w) off n = memRead s off n := by
  unfold memRead
  cases locate off n with
  | none => rfl
  | some target =>
    cases target with
    | register r => cases r <;> rfl
    | frame => rfl

/-- Settles O43: a legal access reaches a target, and the value there does not depend on the values read before. -/
theorem readsHaveNoSideEffect : Obligations.ReadsHaveNoSideEffect := by
  intro s off n hlegal
  obtain ⟨v, hv⟩ := Option.isSome_iff_exists.1 ((memRead_isSome_iff s off n).2 hlegal)
  refine ⟨v, perform_read hv, fun t ht => ?_⟩
  obtain rfl : s.logRead v = t := Host.Outcome.next.inj ((perform_read hv).symm.trans ht)
  exact perform_read ((memRead_logRead s v off n).trans hv)

theorem writeRegister_again {s t : State} {v : Word} {r : Register} (h : writeRegister s v r = some t) :
    writeRegister t v r = some t := by
  cases r with
  | payload k =>
    cases h
    simp [writeRegister, State.writePayload]
  | status | result | calcCrc | expLen | actLen | param | crcTable => cases h
  | _ => cases h; rfl

/-- A write, less the command of a CMD write, is idempotent. -/
theorem memWrite_again {s t : State} {off : Byte} {n : AccessSize} {v : Word} (h : memWrite s off n v = some t) :
    memWrite t off n v = some t := by
  obtain ⟨i, hl, -, rfl⟩ | ⟨r, hl, hw⟩ := memWrite_cases h
  · simp [memWrite, hl, State.writeFrame, Memory.writeList_writeList_same]
  · simpa [memWrite, hl] using writeRegister_again hw

/-- Only the offset of CMD issues a command (20_memory.md R58). -/
theorem issuesCommand_eq_false {off : Byte} {n : AccessSize} (h : off ≠ 0x00#8) : issuesCommand off n = false := by
  refine decide_eq_false fun hcmd => h ?_
  exact BitVec.eq_of_toNat_eq (offset_of_locate_register hcmd)

/-- Settles O44: away from CMD a write is its store alone, and that store is idempotent. -/
theorem equalWritesAreIdempotent : Obligations.EqualWritesAreIdempotent := by
  intro s t off n v hoff h
  have hissues := issuesCommand_eq_false (n := n) hoff
  cases hw : memWrite s off n v with
  | none => cases (perform_write_busError hw).symm.trans h
  | some u =>
    rw [perform_write hw, hissues] at h
    cases h
    rw [perform_write (memWrite_again hw), hissues]
    rfl

/-! ### FRAME accesses (20_memory.md R59, R60) -/

/-- An aligned access of the byte FRAME[f] reaches FRAME from f (20_memory.md R55). -/
theorem locate_frameOffset {f : Nat} {n : AccessSize} (hf : f < 32) (halign : f % accessBytes n = 0) :
    locate (BitVec.ofNat 8 (0xC0 + f)) n = some (.frame f) := by
  have hoff : (BitVec.ofNat 8 (0xC0 + f)).toNat = 0xC0 + f := by
    rw [BitVec.toNat_ofNat]
    omega
  have hmod : (0xC0 + f) % n.bytes = 0 := by
    rw [accessBytes_eq] at halign
    cases n <;> simp only [AccessSize.bytes] at halign ⊢ <;> omega
  rw [locate_frame (by omega) (by omega) (by rwa [hoff]), hoff, Nat.add_sub_cancel_left]

theorem readsAs_frame {f : Nat} {n : AccessSize} (hf : f < 32) (halign : f % accessBytes n = 0) (s : State) :
    readsAs s (BitVec.ofNat 8 (0xC0 + f)) n (leWord (s.frameBytes f n.bytes)) :=
  perform_read (by simp only [memRead, locate_frameOffset hf halign])

/-- A FRAME write issues no command: it stores its bytes alone. -/
theorem perform_write_frame {f : Nat} {n : AccessSize} (hf : f < 32) (halign : f % accessBytes n = 0) (s : State)
    (v : Word) : perform s (.write (BitVec.ofNat 8 (0xC0 + f)) n v) = .next (s.writeFrame f (leBytes n.bytes v)) := by
  have hl := locate_frameOffset hf halign
  rw [perform_write (t := s.writeFrame f (leBytes n.bytes v)) (by simp only [memWrite, hl])]
  simp [issuesCommand, hl]

theorem sameBytesOutside_writeFrame (s : State) (f : Nat) (bs : List Byte) :
    sameBytesOutside s (s.writeFrame f bs) (0xC0 + f) bs.length := by
  intro a ha
  rw [State.writeFrame_frame, State.writeFrame_epoch, Memory.read_writeList, dif_neg ha]

/-- Settles O47: a read is the number with the bytes as digits, a write stores the bytes of its value. -/
theorem frameAccessesAreLittleEndian : Obligations.FrameAccessesAreLittleEndian := by
  intro s f n hf halign
  constructor
  · convert readsAs_frame hf halign s using 1
    rw [leWord_eq_ofDigits]
    cases n <;> simp [State.frameBytes, AccessSize.bytes, List.range_succ, Nat.ofDigits_cons, littleNat, mul_add,
      ← mul_assoc, add_assoc]
  · intro v
    refine ⟨_, perform_write_frame hf halign s v, rfl, fun j hj => ?_, ?_⟩
    · rw [accessBytes_eq] at hj
      rw [State.frameByte_writeFrame, dif_pos (by simpa using hj)]
      simp [leBytes, byteOf_eq_wordByte]
    · simpa [accessBytes_eq] using sameBytesOutside_writeFrame s f (leBytes n.bytes v)

/-- Settles O48: the bytes read are those written, and their number is the low 8n bits. -/
theorem frameReadReturnsTheLastWrite : Obligations.FrameReadReturnsTheLastWrite := by
  intro s f n v hf halign
  refine ⟨_, perform_write_frame hf halign s v, ?_⟩
  have hbytes := State.frameBytes_writeFrame s f (leBytes n.bytes v)
  rw [leBytes_length] at hbytes
  have hread := readsAs_frame hf halign (s.writeFrame f (leBytes n.bytes v))
  rwa [hbytes, leWord_leBytes, ← accessBytes_eq] at hread

/-! ### The host's two lists (20_memory.md R58, R60, R61) -/

/-- A write, its command included, leaves the host's lists alone. -/
theorem hostLists_of_write {s t : State} {off : Byte} {n : AccessSize} {v : Word}
    (h : performEvent (.write off n v) s = .next t) : t.pending = s.pending ∧ t.reads = s.reads := by
  obtain ⟨_, _, _, he, -⟩ | ⟨_, _, _, u, -, hu, hcmd⟩ | ⟨he, -⟩ := performEvent_cases h
  · cases he
  · have hlists : u.pending = s.pending ∧ u.reads = s.reads := by
      obtain ⟨i, -, -, rfl⟩ | ⟨r, -, hw⟩ := memWrite_cases hu
      · exact ⟨rfl, rfl⟩
      · obtain ⟨-, -, hpending, hreads, -⟩ := writeRegister_keeps hw
        exact ⟨hpending, hreads⟩
    obtain rfl | ⟨i, -, hex⟩ | rfl := hcmd
    · exact hlists
    · obtain ⟨-, -, -, hpending, hreads, -⟩ := noCommandChangesControlState i u t hex
      exact ⟨hpending.trans hlists.1, hreads.trans hlists.2⟩
    · exact hlists
  · cases he

/-- Settles O55: the step takes the first access off the list, and no event touches what is left of it. -/
theorem stepPerformsTheFirstPendingAccess : Obligations.StepPerformsTheFirstPendingAccess := by
  intro s t h
  obtain ⟨hnone, rfl⟩ | ⟨ev, rest, hfirst, hev⟩ := step_cases h
  · exact ⟨fun _ => rfl, fun ev rest hfirst => nomatch hnone.symm.trans hfirst⟩
  · refine ⟨fun hnone => (nomatch hnone.symm.trans hfirst), fun ev' rest' hfirst' => ?_⟩
    cases hfirst.symm.trans hfirst'
    refine ⟨hev, ?_⟩
    cases ev with
    | read off n =>
      obtain ⟨_, _, v, -, -, rfl⟩ | ⟨_, _, _, _, he, -⟩ | ⟨he, -⟩ := performEvent_cases hev
      · exact ⟨rfl, v, rfl⟩
      · cases he
      · cases he
    | write off n v => exact hostLists_of_write hev
    | reset =>
      cases hev
      exact ⟨rfl, rfl⟩

end Sys2Proof.Safety

/-! The encoding family (30_encoding.md): the opcode map by match and mask, decoding and encoding as inverses of each
other, and the assembler. -/

namespace Sys2Proof.Safety

open Sys2Proof.Machine

/-! ### Fields and commands -/

/-- The encoded word of every command lies in its row (30_encoding.md R72). -/
theorem encodedRow (i : Instr) : Laws.EncodedRow.Statement i := by
  cases i with
  | nop => exact Laws.EncodedRow.nop
  | crcInit => exact Laws.EncodedRow.crcInit
  | crcUpd8 d => exact Laws.EncodedRow.crcUpd8 d
  | crcUpdf start count => exact Laws.EncodedRow.crcUpdf start count
  | crcFin => exact Laws.EncodedRow.crcFin
  | crcCalc start count => exact Laws.EncodedRow.crcCalc start count
  | encode count => exact Laws.EncodedRow.encode count
  | decode => exact Laws.EncodedRow.decode
  | packW k off e => exact Laws.EncodedRow.packW k off e
  | unpackW k off e => exact Laws.EncodedRow.unpackW k off e

theorem fitsField_iff {n : Nat} : fitsField n = true ↔ n < 256 := decide_eq_true_iff

theorem toNat_ofNat_of_fitsField {n : Nat} (h : fitsField n = true) : (BitVec.ofNat 8 n).toNat = n :=
  Nat.mod_eq_of_lt (fitsField_iff.1 h)

@[simp] theorem fitsField_toNat (b : Byte) : fitsField b.toNat = true := fitsField_iff.2 b.isLt

/-- The fields of a well-formed command carry its operands whole (30_encoding.md R71, R77). -/
theorem buildInstr_fieldsOfInstr {i : Instr} (h : i.wellFormed = true) :
    buildInstr (opcodeOf i) (fieldsOfInstr i) = i := by
  cases i with
  | nop | crcInit | crcFin | decode | crcUpd8 _ => rfl
  | encode count => simp [buildInstr, opcodeOf, fieldsOfInstr, toNat_ofNat_of_fitsField h]
  | crcUpdf m n | crcCalc m n | packW m n _ | unpackW m n _ =>
    obtain ⟨hm, hn⟩ := Bool.and_eq_true_iff.1 h
    simp [buildInstr, opcodeOf, fieldsOfInstr, toNat_ofNat_of_fitsField hm, toNat_ofNat_of_fitsField hn,
      byteOrderOfBit_bitOfByteOrder]

/-- Operands taken from fields fit their fields. -/
theorem wellFormed_buildInstr (op : Opcode) (f : CommandFields) : (buildInstr op f).wellFormed = true := by
  cases op <;> simp [buildInstr, Instr.wellFormed]

/-- The fields a command was built from are the fields it is encoded into, when those its row marks `0` are 0. -/
theorem fieldsOfInstr_buildInstr {op : Opcode} {f : CommandFields} (hop : opcodeOfByte f.opc = some op)
    (hr : f.rsv = 0#7) (ha : opcodeUsesA op = false → f.a = 0#8) (hb : opcodeUsesB op = false → f.b = 0#8)
    (he : opcodeUsesE op = false → f.e = 0#1) : fieldsOfInstr (buildInstr op f) = f := by
  have hopc := byteOfOpcode_of_opcodeOfByte hop
  obtain ⟨opc, a, b, e, rsv⟩ := f
  cases op <;>
    simp_all [fieldsOfInstr, buildInstr, opcodeOf, opcodeUsesA, opcodeUsesB, opcodeUsesE, bitOfByteOrder_byteOrderOfBit]

/-- Settles O1: the encoded fields lie in the command's row and carry its operands whole. -/
theorem decodeOfEncodeIsTheCommand : Obligations.DecodeOfEncodeIsTheCommand := by
  intro i hi
  obtain ⟨hopc, hr, ha, hb, he⟩ := encodedRow i
  have hop : opcodeOfByte (fieldsOf (Sys2Proof.encode i)).opc = some (opcodeOf i) := by
    rw [hopc, opcodeOfByte_byteOfOpcode]
  calc decodeWord (Sys2Proof.encode i)
      = .ok (buildInstr (opcodeOf i) (fieldsOf (Sys2Proof.encode i))) := decodeFields_eq_ok hop hr ha hb he
    _ = .ok (buildInstr (opcodeOf i) (fieldsOfInstr i)) := by rw [Sys2Proof.encode, fieldsOf_wordOf]
    _ = .ok i := by rw [buildInstr_fieldsOfInstr hi]

/-- Settles O3: the command is built from the fields of the word, and these lay out to the word. -/
theorem decodedCommandEncodesBackToItsWord : Obligations.DecodedCommandEncodesBackToItsWord := by
  intro w i h
  obtain ⟨op, hop, hr, ha, hb, he, rfl⟩ := decodeFields_ok h
  refine ⟨wellFormed_buildInstr op _, ?_⟩
  rw [Sys2Proof.encode, fieldsOfInstr_buildInstr hop hr ha hb he, wordOf_fieldsOf]

/-! ### The opcode map by match and mask (30_encoding.md R72) -/

/-- The mask column of R72 by fields: OPC and RSV always, A, B and E where the row marks them `0`. -/
def maskFields (op : Opcode) : CommandFields where
  opc := BitVec.allOnes 8
  a := if opcodeUsesA op then 0#8 else BitVec.allOnes 8
  b := if opcodeUsesB op then 0#8 else BitVec.allOnes 8
  e := if opcodeUsesE op then 0#1 else BitVec.allOnes 1
  rsv := BitVec.allOnes 7

theorem rowMask_eq_wordOf (op : Opcode) : rowMask op = wordOf (maskFields op) := by
  cases op <;> rfl

theorem rowMatch_eq_wordOf (op : Opcode) : rowMatch op = wordOf ⟨byteOfOpcode op, 0#8, 0#8, 0#1, 0#7⟩ := by
  cases op <;> rfl

theorem wordOf_and_wordOf (f g : CommandFields) :
    wordOf f &&& wordOf g = wordOf ⟨f.opc &&& g.opc, f.a &&& g.a, f.b &&& g.b, f.e &&& g.e, f.rsv &&& g.rsv⟩ := by
  simp only [wordOf, ← BitVec.and_append]

theorem wordOf_inj {f g : CommandFields} : wordOf f = wordOf g ↔ f = g :=
  (Function.LeftInverse.injective fieldsOf_wordOf).eq_iff

/-- A masked field is 0 exactly when the row uses the field or the field is 0. -/
theorem and_ite_allOnes_eq_zero {n : Nat} (x : BitVec n) (used : Bool) :
    x &&& (if used then 0#n else BitVec.allOnes n) = 0#n ↔ (used = false → x = 0#n) := by
  cases used <;> simp

/-- A word matches a row exactly when OPC is the row's and RSV and every field the row marks `0` are 0. -/
theorem matchesRow_iff {w : Word} {op : Opcode} :
    matchesRow w op ↔ opcodeOfByte (fieldsOf w).opc = some op ∧ (fieldsOf w).rsv = 0#7 ∧
      (opcodeUsesA op = false → (fieldsOf w).a = 0#8) ∧ (opcodeUsesB op = false → (fieldsOf w).b = 0#8) ∧
      (opcodeUsesE op = false → (fieldsOf w).e = 0#1) := by
  have hopc : (fieldsOf w).opc = byteOfOpcode op ↔ opcodeOfByte (fieldsOf w).opc = some op :=
    ⟨fun h => h ▸ opcodeOfByte_byteOfOpcode op, fun h => (byteOfOpcode_of_opcodeOfByte h).symm⟩
  rw [matchesRow, ← wordOf_fieldsOf w, fieldsOf_wordOf, rowMask_eq_wordOf, rowMatch_eq_wordOf, wordOf_and_wordOf,
    wordOf_inj, CommandFields.mk.injEq]
  simp only [maskFields, BitVec.and_allOnes, and_ite_allOnes_eq_zero, hopc]
  tauto

theorem byteField_eq_toNat (w : Word) (lo : Nat) : byteField w lo = (w.extractLsb' lo 8).toNat := by
  rw [BitVec.extractLsb'_toNat, Nat.shiftRight_eq_div_pow, byteField]

theorem byteOrderOfBit_eq_orderField (w : Word) : byteOrderOfBit (w.extractLsb' 24 1) = orderField w := by
  have hbit : w.extractLsb' 24 1 = 1#1 ↔ w.toNat / 2 ^ 24 % 2 = 1 := by
    rw [← BitVec.toNat_inj, BitVec.extractLsb'_toNat, Nat.shiftRight_eq_div_pow]
    rfl
  simp only [byteOrderOfBit, orderField, hbit]

/-- The command of a row by arithmetic on the word is the one built from the word's fields. -/
theorem rowCommand_eq_buildInstr (op : Opcode) (w : Word) : rowCommand op w = buildInstr op (fieldsOf w) := by
  cases op <;>
    simp only [rowCommand, buildInstr, fieldsOf, byteOrderOfBit_eq_orderField, byteField_eq_toNat, BitVec.ofNat_toNat,
      BitVec.setWidth_eq]

/-- What the decoder answers: the command of the row the word matches. -/
theorem decodeWord_eq_ok {w : Word} {i : Instr} :
    decodeWord w = .ok i ↔ ∃ op, matchesRow w op ∧ i = rowCommand op w := by
  constructor
  · intro h
    obtain ⟨op, hop, hr, ha, hb, he, hi⟩ := decodeFields_ok h
    exact ⟨op, matchesRow_iff.2 ⟨hop, hr, ha, hb, he⟩, hi.trans (rowCommand_eq_buildInstr op w).symm⟩
  · rintro ⟨op, hm, rfl⟩
    obtain ⟨hop, hr, ha, hb, he⟩ := matchesRow_iff.1 hm
    exact rowCommand_eq_buildInstr op w ▸ decodeFields_eq_ok hop hr ha hb he

@[simp] theorem opcodeOf_rowCommand (op : Opcode) (w : Word) : opcodeOf (rowCommand op w) = op := by
  rw [rowCommand_eq_buildInstr, opcodeOf_buildInstr]

/-- Settles O2: matching is a statement about fields, OPC tells the row, and the command tells it back. -/
theorem wordSelectsExactlyTheMatchingRow : Obligations.WordSelectsExactlyTheMatchingRow := by
  refine ⟨fun w op => ⟨fun hm => decodeWord_eq_ok.2 ⟨op, hm, rfl⟩, fun h => ?_⟩, fun w op op' hm hm' => ?_,
    fun w i h => ?_⟩
  · obtain ⟨op', hm, hcmd⟩ := decodeWord_eq_ok.1 h
    have hop : op = op' := by simpa using congrArg opcodeOf hcmd
    exact hop ▸ hm
  · have hop := (matchesRow_iff.1 hm).1
    have hop' := (matchesRow_iff.1 hm').1
    exact Option.some.inj (hop.symm.trans hop')
  · obtain ⟨op, hm, -⟩ := decodeWord_eq_ok.1 h
    exact ⟨op, hm⟩

/-! ### The assembler (30_encoding.md R77) -/

/-- A command that assembles decodes from its word. -/
theorem decodeWord_of_assemble {i : Instr} {w : Word} (h : assemble i = some w) : decodeWord w = .ok i := by
  obtain ⟨hi, rfl⟩ := assemble_eq_some.1 h
  exact decodeOfEncodeIsTheCommand i hi

theorem assemble_eq_none {i : Instr} : assemble i = none ↔ i.wellFormed = false := by
  unfold assemble
  split_ifs with h <;> simp [h]

/-- Where both numbers of a command have a field, an operand text that is a number fits when the command does. -/
theorem operand_lt_of_withNumbers {a b operand : List Char} {f : Nat → Nat → Instr} {i : Instr} {n : Nat}
    (hf : ∀ k m, (f k m).wellFormed = (fitsField k && fitsField m)) (h : withNumbers a b f = some i)
    (hi : i.wellFormed = true) (hmem : operand ∈ [a, b]) (hn : parseNumber operand = some n) : n < 256 := by
  obtain ⟨k, m, hk, hm, rfl⟩ := withNumbers_eq_some h
  rw [hf, Bool.and_eq_true, fitsField_iff, fitsField_iff] at hi
  obtain rfl | rfl : operand = a ∨ operand = b := by simpa using hmem
  · exact Option.some.inj (hk.symm.trans hn) ▸ hi.1
  · exact Option.some.inj (hm.symm.trans hn) ▸ hi.2

/-- The same with a byte order as the third operand, which is no number. -/
theorem operand_lt_of_byteOrder {a b e operand : List Char} {f : ByteOrder → Nat → Nat → Instr} {i : Instr}
    {n : Nat} (hf : ∀ o k m, (f o k m).wellFormed = (fitsField k && fitsField m))
    (h : ((parseByteOrder e).bind fun o => withNumbers a b (f o)) = some i) (hi : i.wellFormed = true)
    (hmem : operand ∈ [a, b, e]) (hn : parseNumber operand = some n) : n < 256 := by
  obtain ⟨o, ho, hnum⟩ := Option.bind_eq_some_iff.1 h
  have hne : operand ≠ e := by
    rintro rfl
    rw [parseNumber_of_byteOrder ho] at hn
    cases hn
  exact operand_lt_of_withNumbers (hf o) hnum hi (by simpa [hne] using hmem) hn

/-- The one operand of CRC.UPD8 is a number that fits its byte (30_encoding.md R77). -/
theorem parseOperands_crcUpd8 {args : List (List Char)} {i : Instr} (h : parseOperands .crcUpd8 args = some i) :
    ∃ a n, args = [a] ∧ parseNumber a = some n ∧ n < 256 ∧ i = .crcUpd8 (BitVec.ofNat 8 n) := by
  match args, h with
  | [], h => cases h
  | [a], h =>
    simp only [parseOperands] at h
    split at h
    · rename_i n hn
      split_ifs at h with hfit
      cases h
      exact ⟨a, n, rfl, hn, fitsField_iff.1 hfit, rfl⟩
    · cases h
  | _ :: _ :: _, h => cases h

/-- Every operand of a well-formed command that is a number fits 8 bits. -/
theorem operand_lt_of_parseOperands {op : Opcode} {args : List (List Char)} {operand : List Char} {i : Instr} {n : Nat}
    (h : parseOperands op args = some i) (hi : i.wellFormed = true) (hmem : operand ∈ args)
    (hn : parseNumber operand = some n) : n < 256 := by
  unfold parseOperands at h
  split at h
  -- NOP, CRC.INIT, CRC.FIN and DECODE have no operand
  case h_1 | h_2 | h_5 | h_8 => cases hmem
  -- CRC.UPD8
  case h_3 a =>
    obtain ⟨_, m, ⟨rfl⟩, hm, hlt, -⟩ := parseOperands_crcUpd8 (args := [a]) h
    rw [List.mem_singleton.1 hmem] at hn
    exact Option.some.inj (hm.symm.trans hn) ▸ hlt
  -- ENCODE
  case h_7 a =>
    rw [List.mem_singleton.1 hmem] at hn
    rw [hn] at h
    cases h
    exact fitsField_iff.1 hi
  -- CRC.UPDF, CRC.CALC, and the packer commands without and with a byte order
  case h_4 | h_6 | h_9 | h_11 => exact operand_lt_of_withNumbers (fun _ _ => rfl) h hi hmem hn
  case h_10 | h_12 => exact operand_lt_of_byteOrder (fun _ _ _ => rfl) h hi hmem hn
  -- any other number of operands
  case h_13 => cases h

/-- Settles O6: a line assembles only when its command is well formed, and then every number in it fits. -/
theorem wideOperandIsAnAssemblyError : Obligations.WideOperandIsAnAssemblyError := by
  refine ⟨fun text operand n hmem hn hwide => ⟨?_, fun hmnem => ?_⟩, fun text w h => ?_, fun n m e hwide => ?_,
    fun i w => decodeWord_of_assemble⟩
  · refine Option.eq_none_iff_forall_ne_some.2 fun w hw => ?_
    obtain ⟨i, hparse, hasm⟩ := assembleText_eq_some.1 hw
    obtain ⟨op, -, hargs⟩ := parseCommand_eq_some.1 hparse
    have hlt := operand_lt_of_parseOperands hargs (assemble_eq_some.1 hasm).1 hmem hn
    omega
  · refine Option.eq_none_iff_forall_ne_some.2 fun i hparse => ?_
    obtain ⟨op, hop, hargs⟩ := parseCommand_eq_some.1 hparse
    cases hmnem.symm.trans hop
    obtain ⟨_, _, -, -, -, rfl⟩ := parseOperands_crcUpd8 hargs
    have hlt := operand_lt_of_parseOperands hargs rfl hmem hn
    omega
  · obtain ⟨i, hparse, hasm⟩ := assembleText_eq_some.1 h
    exact ⟨i, hparse, decodeWord_of_assemble hasm⟩
  · have hn : fitsField n = false := decide_eq_false (Nat.not_lt.2 hwide)
    simp [assemble_eq_none, Instr.wellFormed, hn]

/-- Settles O4: the decoder evaluated on the fifteen words. -/
theorem encodingExamplesDecode : Obligations.EncodingExamplesDecode := by
  unfold Obligations.EncodingExamplesDecode
  decide

end Sys2Proof.Safety

/-! The CRC family (40_crc.md): the nibble engine as bit steps, long division and polynomials over GF(2), and the CRC
commands. -/

namespace Sys2Proof.Machine

/-! ### Bit steps (40_crc.md R101, R103) -/

theorem crcStep_iterate_xor (poly x y : Byte) (n : Nat) :
    (crcStep poly)^[n] (x ^^^ y) = (crcStep poly)^[n] x ^^^ (crcStep poly)^[n] y :=
  Function.Semiconj₂.iterate (crcStep_xor poly) n x y

/-- A bit step of a register whose top bit is clear is a shift. -/
theorem crcStep_of_top_clear (poly : Byte) {c : Byte} (h : c.getLsbD 7 = false) : crcStep poly c = c <<< 1 := by
  unfold crcStep
  rw [h, if_neg Bool.false_ne_true]

/-- While no set bit has reached the top, bit steps are shifts. -/
theorem crcStep_iterate_of_top_clear (poly : Byte) {c : Byte} {n : Nat}
    (h : ∀ i < n, c.getLsbD (7 - i) = false) : (crcStep poly)^[n] c = c <<< n := by
  induction n with
  | zero => simp
  | succ n ih =>
    have htop : (c <<< n).getLsbD 7 = false := by
      rw [BitVec.getLsbD_shiftLeft, h n (Nat.lt_succ_self n), Bool.and_false]
    rw [Function.iterate_succ_apply', ih fun i hi => h i (by omega), crcStep_of_top_clear poly htop,
      ← BitVec.shiftLeft_add]

/-- Four bit steps shift a low nibble into the high one. -/
theorem crcStep_iterate_low_nibble (poly c : Byte) : (crcStep poly)^[4] (c &&& 0x0F#8) = c <<< 4 := by
  have htop : ∀ i < 4, (c &&& 0x0F#8).getLsbD (7 - i) = false := by
    intro i hi
    interval_cases i <;> simp
  rw [crcStep_iterate_of_top_clear poly htop]
  ext i hi
  interval_cases i <;> simp

/-- One reduction step of R102 is four bit steps: the table does them on the high nibble, the shift on the low one. -/
theorem crcNibble_eq_iterate (poly c y : Byte) :
    crcNibble poly c ((c >>> 4) ^^^ y) = (crcStep poly)^[4] (c ^^^ (y <<< 4)) := by
  have hsplit : c ^^^ (y <<< 4) = (((c >>> 4) ^^^ y).setWidth 4).setWidth 8 <<< 4 ^^^ (c &&& 0x0F#8) := by
    ext i hi
    interval_cases i <;> simp
  rw [hsplit, crcStep_iterate_xor, crcStep_iterate_low_nibble]
  rfl

/-! ### The meanings of the CRC commands (40_crc.md section 2) -/

@[simp] theorem exec_nop (s : State) : exec .nop s = .next { s with err := .ok } := rfl

@[simp] theorem exec_crcInit (s : State) : exec .crcInit s = .next { s with crc := s.params.init, err := .ok } := rfl

@[simp] theorem exec_crcUpd8 (d : Byte) (s : State) :
    exec (.crcUpd8 d) s = .next { s with crc := crc8Upd s.params.poly s.crc d, err := .ok } := rfl

@[simp] theorem exec_crcFin (s : State) :
    exec .crcFin s = .next { s with result := s.crc ^^^ s.params.xorOut, err := .ok } := rfl

theorem exec_crcUpdf_of_range {start count : Nat} (h : start + count ≤ 32) (s : State) :
    exec (.crcUpdf start count) s =
      .next { s with crc := crcUpdate s.params.poly s.crc (s.frameBytes start count), err := .ok } := if_pos h

theorem exec_crcUpdf_rangeError {start count : Nat} (h : 32 < start + count) (s : State) :
    exec (.crcUpdf start count) s = .next { s with err := .rangeError } := if_neg (Nat.not_le.2 h)

theorem exec_crcCalc_of_range {start count : Nat} (h : start + count ≤ 32) (s : State) {c : Byte}
    (hc : crcUpdate s.params.poly s.params.init (s.frameBytes start count) = c) :
    exec (.crcCalc start count) s = .next { s with crc := c, result := c ^^^ s.params.xorOut, err := .ok } := by
  subst hc
  exact if_pos h

theorem exec_crcCalc_rangeError {start count : Nat} (h : 32 < start + count) (s : State) :
    exec (.crcCalc start count) s = .next { s with err := .rangeError } := if_neg (Nat.not_le.2 h)

end Sys2Proof.Machine

namespace Sys2Proof.Safety

open Sys2Proof.Machine

theorem eightSteps_eq_iterate (poly x : Byte) : eightSteps poly x = (crcStep poly)^[8] x := rfl

theorem eightSteps_zero (poly : Byte) : eightSteps poly 0#8 = 0#8 := Function.iterate_fixed (crcStep_zero poly) 8

theorem eightSteps_xor (poly x y : Byte) : eightSteps poly (x ^^^ y) = eightSteps poly x ^^^ eightSteps poly y :=
  crcStep_iterate_xor poly x y 8

/-- Settles O8: the sixteen entries evaluated. -/
theorem nibbleTableOfTheDefaultPolynomial : Obligations.NibbleTableOfTheDefaultPolynomial := by
  unfold Obligations.NibbleTableOfTheDefaultPolynomial
  decide

/-- Settles O9: each nibble of the byte is four bit steps, and the low nibble of `d` may join before the first four. -/
theorem byteUpdateIsEightBitSteps : Obligations.ByteUpdateIsEightBitSteps := by
  intro poly c d
  have hbyte : c ^^^ d = c ^^^ (d >>> 4 <<< 4) ^^^ (d &&& 0x0F#8) := by
    ext i hi
    interval_cases i <;> simp
  calc crc8Upd poly c d
      = (crcStep poly)^[4] ((crcStep poly)^[4] (c ^^^ (d >>> 4 <<< 4)) ^^^ (d <<< 4)) := by
        simp only [crc8Upd, crcNibble_eq_iterate]
    _ = (crcStep poly)^[4] ((crcStep poly)^[4] (c ^^^ d)) := by
        rw [hbyte, crcStep_iterate_xor poly _ (d &&& 0x0F#8), crcStep_iterate_low_nibble]
    _ = eightSteps poly (c ^^^ d) := (Function.iterate_add_apply (crcStep poly) 4 4 _).symm

/-- Update by the nibble table is Update by bit steps (40_crc.md R103, R104). -/
theorem crcUpdate_eq_serialUpdate (poly c : Byte) (bs : List Byte) : crcUpdate poly c bs = serialUpdate poly c bs :=
  congrArg (fun f => bs.foldl f c) (funext₂ (byteUpdateIsEightBitSteps poly))

/-! ### Long division (40_crc.md R100) -/

/-- Clearing the term of degree 8 + j with the generator is one bit step on the byte above the terms still to clear. -/
theorem divideAt_generator (poly c : Byte) (j : Nat) (hj : j < 8) :
    divideAt (generator poly) (c.setWidth 16 <<< (j + 1)) j = (crcStep poly c).setWidth 16 <<< j := by
  have htop : (c.setWidth 16 <<< (j + 1)).getLsbD (8 + j) = c.getLsbD 7 := by
    simp [show 8 + j < 16 by omega, show 8 + j - (j + 1) = 7 by omega]
  have hshift : c.setWidth 16 <<< (j + 1) = (c.setWidth 16 <<< 1) <<< j := by
    rw [Nat.add_comm, BitVec.shiftLeft_add]
  unfold divideAt crcStep
  rw [htop, hshift]
  cases h7 : c.getLsbD 7 with
  | false =>
    have hbyte : c.setWidth 16 <<< 1 = (c <<< 1).setWidth 16 := by
      ext i hi
      interval_cases i <;> simp_all
    simp [hbyte]
  | true =>
    have hbyte : c.setWidth 16 <<< 1 ^^^ generator poly = (c <<< 1 ^^^ poly).setWidth 16 := by
      ext i hi
      interval_cases i <;> simp_all [generator]
    simp [← BitVec.shiftLeft_xor_distrib, hbyte]

theorem remainder_eq_eightSteps (poly x : Byte) : remainder poly x = eightSteps poly x := by
  simp [remainder, divideAt_generator, eightSteps]

/-- Settles O10: the long division takes the same eight steps. -/
theorem byteUpdateIsPolynomialRemainder : Obligations.ByteUpdateIsPolynomialRemainder := fun poly c d =>
  (byteUpdateIsEightBitSteps poly c d).trans (remainder_eq_eightSteps poly _).symm

/-! ### Update over a sequence (40_crc.md R104) -/

/-- Settles O11: Update is a fold, and the second CRC.UPDF reads the FRAME that the first left as it was. -/
theorem updateOverChunksIsUpdateOverTheWhole : Obligations.UpdateOverChunksIsUpdateOverTheWhole := by
  refine ⟨crcUpdate_nil, crcUpdate_cons, fun poly c bs k _ => ?_, fun s start m n hin => ?_⟩
  · rw [← crcUpdate_append, List.take_append_drop]
  · refine ⟨_, exec_crcUpdf_of_range (by omega) s, ?_⟩
    rw [exec_crcUpdf_of_range (by omega), exec_crcUpdf_of_range hin, State.frameBytes_add, crcUpdate_append]
    rfl

/-! ### The engine is linear (40_crc.md R107) -/

/-- Settles O12: appending the checksum cancels the register and leaves P_XOROUT. -/
theorem engineIsLinearWithFixedResidue : Obligations.EngineIsLinearWithFixedResidue := by
  refine ⟨byteUpdateIsEightBitSteps, eightSteps_zero, eightSteps_xor, fun p bs => ?_, eightSteps_zero _⟩
  rw [crcUpdate_append, crcUpdate_cons, crcUpdate_nil, byteUpdateIsEightBitSteps, crcCalculate, crcFinalize,
    ← BitVec.xor_assoc, BitVec.xor_self, BitVec.zero_xor]

/-- A difference in the register before a sequence becomes its bit steps, eight per byte, after it. -/
theorem crcUpdate_xor (poly c e : Byte) (bs : List Byte) :
    crcUpdate poly (c ^^^ e) bs = crcUpdate poly c bs ^^^ (crcStep poly)^[8 * bs.length] e := by
  induction bs generalizing c e with
  | nil => rfl
  | cons d bs ih =>
    have hbyte : crc8Upd poly (c ^^^ e) d = crc8Upd poly c d ^^^ eightSteps poly e := by
      rw [byteUpdateIsEightBitSteps, byteUpdateIsEightBitSteps, ← eightSteps_xor]
      ac_rfl
    rw [crcUpdate_cons, crcUpdate_cons, hbyte, ih, List.length_cons, Nat.mul_succ, Function.iterate_add_apply,
      eightSteps_eq_iterate]

/-- The difference that flipping bit j of byte i makes in Update: bit steps from that bit to the end of the sequence. -/
theorem crcUpdate_flipBit (poly c : Byte) (bs : List Byte) (i j : Nat) (hi : i < bs.length) :
    crcUpdate poly c (flipBit bs i j) =
      crcUpdate poly c bs ^^^ (crcStep poly)^[8 * (bs.drop i).length] (1#8 <<< j) := by
  have hflip : flipBit bs i j = bs.take i ++ (bs[i] ^^^ (1#8 <<< j)) :: bs.drop (i + 1) :=
    List.modify_eq_take_cons_drop hi
  have hbyte (r : Byte) : crc8Upd poly r (bs[i] ^^^ (1#8 <<< j)) = crc8Upd poly (r ^^^ (1#8 <<< j)) bs[i] := by
    rw [byteUpdateIsEightBitSteps, byteUpdateIsEightBitSteps]
    ac_rfl
  calc crcUpdate poly c (flipBit bs i j)
      = crcUpdate poly (crcUpdate poly c (bs.take i) ^^^ (1#8 <<< j)) (bs.drop i) := by
        rw [hflip, crcUpdate_append, crcUpdate_cons, hbyte, ← crcUpdate_cons, ← List.drop_eq_getElem_cons hi]
    _ = crcUpdate poly (crcUpdate poly c (bs.take i)) (bs.drop i) ^^^ _ := crcUpdate_xor ..
    _ = crcUpdate poly c bs ^^^ _ := by rw [← crcUpdate_append, List.take_append_drop]

/-! ### Bytes as polynomials over GF(2) (40_crc.md R100, R108) -/

section

open Polynomial

/-- The polynomial of a byte: bit i is the coefficient of X^i (00_scope.md R5). -/
noncomputable def bytePoly (c : Byte) : (ZMod 2)[X] :=
  ∑ i ∈ Finset.range 8, monomial i (if c.getLsbD i then 1 else 0)

/-- The generator X^8 + P_POLY as a polynomial (40_crc.md R100). -/
noncomputable def generatorPoly (poly : Byte) : (ZMod 2)[X] := X ^ 8 + bytePoly poly

theorem coeff_bytePoly (c : Byte) (i : Nat) : (bytePoly c).coeff i = if c.getLsbD i then 1 else 0 := by
  simp only [bytePoly, finsetSum_coeff, coeff_monomial, Finset.sum_ite_eq', Finset.mem_range]
  by_cases hi : i < 8
  · rw [if_pos hi]
  · rw [if_neg hi, BitVec.getLsbD_of_ge c i (Nat.le_of_not_lt hi), if_neg Bool.false_ne_true]

@[simp] theorem bytePoly_zero : bytePoly 0#8 = 0 := by
  ext i
  simp [coeff_bytePoly]

theorem bytePoly_eq_zero {c : Byte} (h : bytePoly c = 0) : c = 0#8 := by
  refine BitVec.eq_of_getLsbD_eq fun i _ => ?_
  have hcoeff : (if c.getLsbD i then 1 else 0 : ZMod 2) = 0 := by rw [← coeff_bytePoly, h, coeff_zero]
  cases hc : c.getLsbD i <;> simp_all

theorem degree_bytePoly_lt (c : Byte) : (bytePoly c).degree < 8 :=
  (degree_lt_iff_coeff_zero _ 8).2 fun i hi => by
    rw [coeff_bytePoly, BitVec.getLsbD_of_ge c i hi, if_neg Bool.false_ne_true]

theorem bytePoly_xor (x y : Byte) : bytePoly (x ^^^ y) = bytePoly x + bytePoly y := by
  ext i
  simp only [coeff_add, coeff_bytePoly, BitVec.getLsbD_xor]
  cases x.getLsbD i <;> cases y.getLsbD i <;> decide

theorem bytePoly_bit {j : Nat} (hj : j < 8) : bytePoly (1#8 <<< j) = X ^ j := by
  ext i
  have hbit : (1#8 <<< j).getLsbD i = decide (i = j) := by
    rw [BitVec.getLsbD_shiftLeft, BitVec.getLsbD_one]
    grind
  simp [coeff_bytePoly, coeff_X_pow, hbit]

/-- Multiplying by X is a shift, and the top bit becomes the term X^8. -/
theorem X_mul_bytePoly (c : Byte) :
    X * bytePoly c = bytePoly (c <<< 1) + if c.getLsbD 7 then X ^ 8 else 0 := by
  ext i
  rw [coeff_add, coeff_bytePoly, BitVec.getLsbD_shiftLeft,
    apply_ite (fun p : (ZMod 2)[X] => p.coeff i), coeff_X_pow, coeff_zero]
  cases i with
  | zero => simp
  | succ i =>
    rw [coeff_X_mul, coeff_bytePoly]
    obtain hi | rfl | hi := Nat.lt_trichotomy i 7
    · simp [hi.ne, show i + 1 < 8 by omega]
    · simp
    · simp [BitVec.getLsbD_of_ge c i hi, hi.ne']

/-- One bit step is a multiplication by X modulo the generator (40_crc.md R100, R101). -/
theorem generatorPoly_dvd_step (poly c : Byte) :
    generatorPoly poly ∣ X * bytePoly c - bytePoly (crcStep poly c) := by
  rw [X_mul_bytePoly]
  unfold crcStep
  cases c.getLsbD 7 with
  | false => simp
  | true =>
    rw [if_pos rfl, if_pos rfl, bytePoly_xor]
    refine ⟨1, ?_⟩
    rw [generatorPoly, CharTwo.sub_eq_add]
    linear_combination CharTwo.add_self_eq_zero (bytePoly (c <<< 1))

/-- n bit steps are a multiplication by X^n modulo the generator. -/
theorem generatorPoly_dvd_iterate (poly c : Byte) (n : Nat) :
    generatorPoly poly ∣ X ^ n * bytePoly c - bytePoly ((crcStep poly)^[n] c) := by
  induction n generalizing c with
  | zero => simp
  | succ n ih =>
    have hsplit : X ^ (n + 1) * bytePoly c - bytePoly ((crcStep poly)^[n + 1] c) =
        X ^ n * (X * bytePoly c - bytePoly (crcStep poly c)) +
          (X ^ n * bytePoly (crcStep poly c) - bytePoly ((crcStep poly)^[n] (crcStep poly c))) := by
      rw [Function.iterate_succ_apply]
      ring
    rw [hsplit]
    exact dvd_add ((generatorPoly_dvd_step poly c).mul_left _) (ih _)

/-- A generator with P_POLY not 0 is no power of X, and so divides none (40_crc.md R108). -/
theorem not_generatorPoly_dvd_X_pow {poly : Byte} (h : poly ≠ 0x00#8) (n : Nat) : ¬ generatorPoly poly ∣ X ^ n := by
  intro hdvd
  have hmonic : (generatorPoly poly).Monic := monic_X_pow_add (degree_bytePoly_lt poly)
  obtain ⟨i, -, hassoc⟩ := (dvd_prime_pow prime_X n).1 hdvd
  have heq : X ^ 8 + bytePoly poly = X ^ i := eq_of_monic_of_associated hmonic (monic_X_pow i) hassoc
  have hi : 8 = i := by
    have hdeg := congrArg natDegree heq
    rwa [natDegree_add_eq_left_of_degree_lt (by simpa using degree_bytePoly_lt poly), natDegree_X_pow,
      natDegree_X_pow] at hdeg
  subst hi
  exact h (bytePoly_eq_zero (left_eq_add.1 heq.symm))

/-- No number of bit steps turns a single bit into 0 (40_crc.md R108). -/
theorem crcStep_iterate_bit_ne_zero {poly : Byte} (h : poly ≠ 0x00#8) {j : Nat} (hj : j < 8) (n : Nat) :
    (crcStep poly)^[n] (1#8 <<< j) ≠ 0#8 := by
  intro hzero
  have hdvd := generatorPoly_dvd_iterate poly (1#8 <<< j) n
  rw [hzero, bytePoly_zero, sub_zero, bytePoly_bit hj, ← pow_add] at hdvd
  exact not_generatorPoly_dvd_X_pow h (n + j) hdvd

end

/-- Settles O13: the flip changes Update by bit steps of a single bit, which never become 0. -/
theorem singleBitFlipChangesTheChecksum : Obligations.SingleBitFlipChangesTheChecksum := by
  intro p bs i j hpoly hi hj heq
  rw [crcCalculate, crcCalculate, crcFinalize, crcFinalize, BitVec.xor_left_inj, crcUpdate_flipBit _ _ _ _ _ hi] at heq
  exact crcStep_iterate_bit_ne_zero hpoly hj _ ((BitVec.xor_right_inj _).1 (heq.trans BitVec.xor_zero.symm))

/-! ### The words of the CRC commands (30_encoding.md R72) -/

/-- The words of a row are those that decode to its command. -/
theorem matchesRow_iff_decodeWord (w : Word) (op : Opcode) :
    matchesRow w op ↔ decodeWord w = .ok (rowCommand op w) := by
  obtain ⟨hsel, -⟩ := wordSelectsExactlyTheMatchingRow
  exact hsel w op

/-- A row without operands has one word. -/
theorem eq_rowMatch_iff_decodeWord {op : Opcode} (hmask : rowMask op = BitVec.allOnes 32) (w : Word) :
    w = rowMatch op ↔ decodeWord w = .ok (rowCommand op w) := by
  rw [← matchesRow_iff_decodeWord, matchesRow, hmask, BitVec.and_allOnes]

/-- A CMD write of a word that does not decode stores the word and raises ILLEGAL_COMMAND (60_exceptions.md R183). -/
theorem perform_cmdWrite_of_error {w : Word} {r : DecodeReject} (h : decodeWord w = .error r) (s : State) :
    perform s (cmdWrite w) = .next { s with cmd := w, err := .illegalCommand } := by
  calc perform s (cmdWrite w) = runCommand w { s with cmd := w } := performWrite_cmd w s
    _ = .next { s with cmd := w, err := .illegalCommand } := by
        unfold runCommand
        rw [h]
        rfl

/-- The row of a word with OPC 0x00 is NOP's. -/
theorem matchesRow_nop_of_opc_zero {w : Word} {op : Opcode} (h0 : byteField w 0 = 0) (hm : matchesRow w op) :
    matchesRow w .nop := by
  obtain ⟨hop, -⟩ := matchesRow_iff.1 hm
  have hopc : (fieldsOf w).opc = 0x00#8 := BitVec.eq_of_toNat_eq ((byteField_eq_toNat w 0).symm.trans h0)
  rw [hopc] at hop
  cases hop
  exact hm

/-! ### NOP and the CRC commands (40_crc.md section 2) -/

/-- Settles O15: a word with OPC 0x00 can match NOP's row alone, whose one word is 0x00000000. -/
theorem nopClearsErrAlone : Obligations.NopClearsErrAlone := by
  refine ⟨exec_nop, eq_rowMatch_iff_decodeWord (op := .nop) rfl, fun s w h0 hne => ?_⟩
  cases hw : decodeWord w with
  | error r => exact perform_cmdWrite_of_error hw s
  | ok i =>
    obtain ⟨op, hm, -⟩ := decodeWord_eq_ok.1 hw
    have hnop := (matchesRow_iff_decodeWord w .nop).1 (matchesRow_nop_of_opc_zero h0 hm)
    exact absurd ((eq_rowMatch_iff_decodeWord (op := .nop) rfl w).2 hnop) hne

/-- Settles O16: CRC.INIT has no operand, so one word. -/
theorem crcInitLoadsTheInitialValue : Obligations.CrcInitLoadsTheInitialValue :=
  ⟨exec_crcInit, eq_rowMatch_iff_decodeWord (op := .crcInit) rfl⟩

/-- Settles O17: the update by bit steps is 0 when the byte equals CRC. -/
theorem crcUpd8FoldsItsByte : Obligations.CrcUpd8FoldsItsByte := by
  refine ⟨fun s d => ⟨exec_crcUpd8 d s, byteUpdateIsEightBitSteps _ _ _, ?_⟩,
    fun w => matchesRow_iff_decodeWord w .crcUpd8⟩
  rintro rfl
  rw [exec_crcUpd8, byteUpdateIsEightBitSteps, BitVec.xor_self, eightSteps_zero]

/-- Settles O18: the range check splits the two outcomes, and Update is the bit-serial one. -/
theorem crcUpdfFoldsTheFrameRange : Obligations.CrcUpdfFoldsTheFrameRange := by
  refine ⟨fun w => matchesRow_iff_decodeWord w .crcUpdf, fun s start count => ⟨fun hin => ?_, fun hout => ?_⟩⟩
  · rw [exec_crcUpdf_of_range hin, crcUpdate_eq_serialUpdate]
    rfl
  · exact exec_crcUpdf_rangeError hout s

/-- Settles O19: with P_XOROUT = 0 the final XOR is the identity. -/
theorem crcFinWritesTheChecksum : Obligations.CrcFinWritesTheChecksum := by
  refine ⟨fun s => ⟨exec_crcFin s, fun hxor => ?_⟩, eq_rowMatch_iff_decodeWord (op := .crcFin) rfl⟩
  rw [exec_crcFin, hxor, BitVec.xor_zero]

/-- Settles O20: as CRC.UPDF, from P_INIT, with the checksum in RESULT. -/
theorem crcCalcWritesCrcAndResult : Obligations.CrcCalcWritesCrcAndResult := by
  refine ⟨fun w => matchesRow_iff_decodeWord w .crcCalc, fun s start count => ⟨fun hin => ⟨_, rfl, ?_⟩, fun hout => ?_⟩⟩
  · exact exec_crcCalc_of_range hin s (crcUpdate_eq_serialUpdate _ _ _)
  · exact exec_crcCalc_rangeError hout s

/-- Settles O14: an empty range is in bounds from every start up to 32, and Update over it is P_INIT. -/
theorem emptyRangeGivesTheEmptyChecksum : Obligations.EmptyRangeGivesTheEmptyChecksum := fun s _ hstart =>
  ⟨rfl, exec_crcCalc_of_range hstart s rfl⟩

/-! ### The codec beside the engine's registers (40_crc.md R121) -/

/-- The state with the engine's registers CRC and RESULT at given values. -/
def withEngine (s : State) (x y : Byte) : State := { s with crc := x, result := y }

theorem encodeTrailer_withEngine (s : State) (x y : Byte) :
    encodeTrailer (withEngine s x y) = withEngine (encodeTrailer s) x y := by
  cases h : s.rev with
  | a =>
    rw [encodeTrailer_a h, encodeTrailer_a (s := withEngine s x y) h]
    rfl
  | b =>
    rw [encodeTrailer_b h rfl, encodeTrailer_b (s := withEngine s x y) h rfl]
    rfl

theorem encodeFrame_withEngine (s : State) (x y : Byte) :
    encodeFrame (withEngine s x y) = withEngine (encodeFrame s) x y :=
  congrArg (fun t : State => { t with len := BitVec.ofNat 8 (frameLength s.rev) }.succeed)
    (encodeTrailer_withEngine (s.writeFrame 0 (frameBody s)) x y)

theorem decodeFrame_withEngine (s : State) (x y : Byte) :
    decodeFrame (withEngine s x y) = withEngine (decodeFrame s) x y := rfl

theorem execEncode_withEngine (count : Nat) (s : State) (x y : Byte) :
    execEncode count (withEngine s x y) = mapNext (withEngine · x y) (execEncode count s) := by
  by_cases h : count = payloadCount s.rev
  · rw [execEncode_of_count h, execEncode_of_count (s := withEngine s x y) h, mapNext_next, ← encodeFrame_withEngine]
    rfl
  · rw [execEncode_of_wrong_count h, execEncode_of_wrong_count (s := withEngine s x y) h]
    rfl

theorem execDecode_withEngine (s : State) (x y : Byte) :
    execDecode (withEngine s x y) = mapNext (withEngine · x y) (execDecode s) := by
  by_cases h : s.len.toNat = frameLength s.rev
  · rw [execDecode_of_length h, execDecode_of_length (s := withEngine s x y) h, mapNext_next, ← decodeFrame_withEngine]
    rfl
  · rw [execDecode_of_wrong_length h, execDecode_of_wrong_length (s := withEngine s x y) h]
    rfl

/-- Settles O31: ENCODE and DECODE commute with a change of CRC and RESULT, and only the CRC commands write them. -/
theorem codecIgnoresTheEngineRegisters : Obligations.CodecIgnoresTheEngineRegisters := by
  intro s i x y hi
  refine ⟨?_, fun t ht => ?_⟩
  · obtain rfl | ⟨n, rfl⟩ := hi
    · exact execDecode_withEngine s x y
    · exact execEncode_withEngine n s x y
  · obtain ⟨-, -, -, -, -, -, -, hcrc, hresult⟩ := onlyTheNamedCommandsWriteEachRegister i s t ht
    obtain rfl | ⟨n, rfl⟩ := hi <;> simpa [opcodeOf] using And.intro hcrc hresult

end Sys2Proof.Safety

/-! The codec family (41_codec.md): ENCODE and DECODE as one equation per revision, the bytes of a message's frame,
and the two commands one after the other. -/

namespace Sys2Proof.Machine

/-! ### Adjacent writes of FRAME -/

theorem Memory.writeList_append (m : Memory) (a : Nat) (bs ds : List Byte) :
    Memory.writeList m a (bs ++ ds) = Memory.writeList (Memory.writeList m a bs) (a + bs.length) ds := by
  induction bs generalizing m a with
  | nil => rfl
  | cons b bs ih =>
    rw [List.cons_append, Memory.writeList, ih, Memory.writeList, List.length_cons, Nat.add_right_comm, Nat.add_assoc]

theorem State.writeFrame_append (s : State) (start : Nat) (bs ds : List Byte) :
    s.writeFrame start (bs ++ ds) = (s.writeFrame start bs).writeFrame (start + bs.length) ds := by
  simp only [State.writeFrame, Memory.writeList_append, Nat.add_assoc]

/-! ### ENCODE (41_codec.md R134) -/

theorem encodeFrame_a {s : State} (h : s.rev = .a) :
    encodeFrame s = { s.writeFrame 0 (frameBody s ++ [s.check]) with len := 27#8, err := .ok } := by
  have hlength : (frameBody s).length = 26 := by rw [frameBody_length, h]; rfl
  unfold encodeFrame
  rw [encodeTrailer_a (s := s.writeFrame 0 (frameBody s)) h, State.writeFrame_append, hlength, h]
  rfl

theorem encodeFrame_b {s : State} (h : s.rev = .b) {c : Byte} (hc : crcCalculate s.params (frameBody s) = c) :
    encodeFrame s =
      { s.writeFrame 0 (frameBody s ++ [c]) with check := c, calcCrc := c, len := 31#8, err := .ok } := by
  have hlength : (frameBody s).length = 30 := by rw [frameBody_length, h]; rfl
  have hbytes := State.frameBytes_writeFrame s 0 (frameBody s)
  rw [hlength] at hbytes
  unfold encodeFrame
  rw [encodeTrailer_b (s := s.writeFrame 0 (frameBody s)) (c := c) h (by rw [hbytes]; exact hc),
    State.writeFrame_append, hlength, h]
  rfl

theorem exec_encode_a {s : State} (h : s.rev = .a) :
    exec (.encode 6) s = .next
      { s.writeFrame 0 (frameBody s ++ [s.check]) with len := 27#8, expLen := 6#8, actLen := 6#8, err := .ok } := by
  refine (execEncode_of_count (by rw [h]; rfl)).trans ?_
  rw [encodeFrame_a (s := s.recordLengths _ _) h, h]
  rfl

theorem exec_encode_b {s : State} (h : s.rev = .b) {c : Byte} (hc : crcCalculate s.params (frameBody s) = c) :
    exec (.encode 7) s = .next { s.writeFrame 0 (frameBody s ++ [c]) with
      check := c, calcCrc := c, len := 31#8, expLen := 7#8, actLen := 7#8, err := .ok } := by
  refine (execEncode_of_count (by rw [h]; rfl)).trans ?_
  rw [encodeFrame_b (s := s.recordLengths _ _) h hc, h]
  rfl

theorem exec_encode_lengthMismatch {s : State} {count : Nat} (h : count ≠ payloadCount s.rev) :
    exec (.encode count) s = .next { s with
      expLen := BitVec.ofNat 8 (payloadCount s.rev), actLen := BitVec.ofNat 8 count, err := .lengthMismatch } :=
  execEncode_of_wrong_count h

/-! ### DECODE (41_codec.md R135) -/

theorem decodeFrame_a {s : State} (h : s.rev = .a) :
    decodeFrame s = { s with
      typeId := s.frameByte 0, cmdType := s.frameByte 1, payload := decodedPayload s, check := s.frameByte 26
      crcMis := false, err := .ok } := by
  simp only [decodeFrame, decodedCalcCrc, receivedByte, crcMisFlag, h]
  rfl

theorem decodeFrame_b {s : State} (h : s.rev = .b) {c : Byte} (hc : crcCalculate s.params (s.frameBytes 0 30) = c) :
    decodeFrame s = { s with
      typeId := s.frameByte 0, cmdType := s.frameByte 1, payload := decodedPayload s, check := s.frameByte 30
      calcCrc := c, crcMis := decide (c ≠ s.frameByte 30), err := .ok } := by
  simp only [decodeFrame, decodedCalcCrc, receivedByte, crcMisFlag, h, hc]
  rfl

theorem exec_decode_a {s : State} (h : s.rev = .a) (hlen : s.len = 27#8) :
    exec .decode s = .next { s with
      typeId := s.frameByte 0, cmdType := s.frameByte 1, payload := decodedPayload s, check := s.frameByte 26
      crcMis := false, expLen := 27#8, actLen := 27#8, err := .ok } := by
  have hexpected : frameLength s.rev = 27 := by rw [h]; rfl
  have hactual : s.len.toNat = 27 := by rw [hlen]; rfl
  refine (execDecode_of_length (hactual.trans hexpected.symm)).trans ?_
  rw [decodeFrame_a (s := s.recordLengths _ _) h, hexpected, hactual]
  rfl

theorem exec_decode_b {s : State} (h : s.rev = .b) (hlen : s.len = 31#8) {c : Byte}
    (hc : crcCalculate s.params (s.frameBytes 0 30) = c) :
    exec .decode s = .next { s with
      typeId := s.frameByte 0, cmdType := s.frameByte 1, payload := decodedPayload s, check := s.frameByte 30
      calcCrc := c, crcMis := decide (c ≠ s.frameByte 30), expLen := 31#8, actLen := 31#8, err := .ok } := by
  have hexpected : frameLength s.rev = 31 := by rw [h]; rfl
  have hactual : s.len.toNat = 31 := by rw [hlen]; rfl
  refine (execDecode_of_length (hactual.trans hexpected.symm)).trans ?_
  rw [decodeFrame_b (s := s.recordLengths _ _) h hc, hexpected, hactual]
  rfl

theorem exec_decode_lengthMismatch {s : State} (h : s.len.toNat ≠ frameLength s.rev) :
    exec .decode s = .next { s with
      expLen := BitVec.ofNat 8 (frameLength s.rev), actLen := s.len, err := .lengthMismatch } := by
  refine (execDecode_of_wrong_length h).trans ?_
  rw [State.raise_lengthMismatch, State.recordLengths, BitVec.ofNat_toNat, BitVec.setWidth_eq]
  rfl

end Sys2Proof.Machine

namespace Sys2Proof.Safety

open Sys2Proof.Machine

/-! ### The frame of a message (41_codec.md R131 to R133) -/

theorem getElem?_payloadBytes (s : State) {n i : Nat} (hn : n ≤ 7) (hi : i < 4 * n) :
    (payloadBytes s n)[i]? = some (byteOf (s.payload[i / 4]?.getD 0#32) (i % 4)) := by
  have htake : (s.payload.toList.take n)[i / 4]? = s.payload[i / 4]? := by
    rw [List.getElem?_take_of_lt (by omega), Vector.getElem?_toList]
  rw [payloadBytes, getElem?_flatMap_ser32 _ _ (by simpa [hn] using hi), htake, byteOf_eq_wordByte]

theorem frameBody_eq_messageBytes (s : State) :
    frameBody s = (List.range (2 + 4 * payloadCount s.rev)).map (messageByte s) := by
  have hn := payloadCount_le s.rev
  refine List.ext_getElem? fun i => ?_
  by_cases hi : i < 2 + 4 * payloadCount s.rev
  · rw [List.getElem?_map, List.getElem?_range hi]
    match i with
    | 0 => rfl
    | 1 => rfl
    | i + 2 => exact getElem?_payloadBytes s hn (by omega)
  · rw [List.getElem?_eq_none (by rw [frameBody_length]; omega), List.getElem?_eq_none (by simpa using hi)]

theorem frameByte_writeFrame_body {s : State} {n i : Nat} (hn : n = 2 + 4 * payloadCount s.rev) (hi : i < n)
    (c : Byte) : (s.writeFrame 0 (frameBody s ++ [c])).frameByte i = messageByte s i := by
  subst hn
  rw [State.frameByte_writeFrame, dif_pos (by simp [frameBody_length]; omega)]
  simp [frameBody_eq_messageBytes, hi]

theorem frameByte_writeFrame_trailer {s : State} {n : Nat} (hn : n = 2 + 4 * payloadCount s.rev) (c : Byte) :
    (s.writeFrame 0 (frameBody s ++ [c])).frameByte n = c := by
  subst hn
  rw [State.frameByte_writeFrame, dif_pos (by simp [frameBody_length])]
  simp [frameBody_eq_messageBytes]

theorem crcCalculate_frameBody {s : State} (h : s.rev = .b) : crcCalculate s.params (frameBody s) = messageCrc s := by
  rw [crcCalculate, crcFinalize, crcUpdate_eq_serialUpdate, frameBody_eq_messageBytes, h]
  rfl

theorem frameBytes_from_zero (s : State) (n : Nat) : s.frameBytes 0 n = (List.range n).map s.frameByte := by
  simp only [State.frameBytes, Nat.zero_add]

theorem crcCalculate_frameBytes (s : State) : crcCalculate s.params (s.frameBytes 0 30) = frameCrc s := by
  rw [crcCalculate, crcFinalize, crcUpdate_eq_serialUpdate, frameBytes_from_zero]
  rfl

/-! ### ENCODE and DECODE alone -/

/-- Settles O21: the frame is the message's bytes and CHECK, written in one run from FRAME[0]. -/
theorem encodeRevisionALaysOutTheFrame : Obligations.EncodeRevisionALaysOutTheFrame := by
  intro s h
  have hn : 26 = 2 + 4 * payloadCount s.rev := by rw [h]; rfl
  have hlength : (frameBody s ++ [s.check]).length = 27 := by simp [frameBody_length, ← hn]
  exact ⟨_, exec_encode_a h, rfl, fun i hi => frameByte_writeFrame_body hn hi s.check,
    frameByte_writeFrame_trailer hn s.check,
    hlength ▸ sameBytesOutside_writeFrame s 0 (frameBody s ++ [s.check])⟩

/-- Settles O22: the frame is the message's bytes and their CRC, written in one run from FRAME[0]. -/
theorem encodeRevisionBLaysOutTheFrame : Obligations.EncodeRevisionBLaysOutTheFrame := by
  intro s h
  have hn : 30 = 2 + 4 * payloadCount s.rev := by rw [h]; rfl
  have hlength : (frameBody s ++ [messageCrc s]).length = 31 := by simp [frameBody_length, ← hn]
  exact ⟨_, exec_encode_b h (crcCalculate_frameBody h), rfl,
    fun i hi => frameByte_writeFrame_body hn hi (messageCrc s),
    frameByte_writeFrame_trailer hn (messageCrc s),
    hlength ▸ sameBytesOutside_writeFrame s 0 (frameBody s ++ [messageCrc s])⟩

/-- Settles O23: the count is not N of the revision. -/
theorem encodeOfAWrongCountIsLengthMismatch : Obligations.EncodeOfAWrongCountIsLengthMismatch := by
  intro s count _
  refine ⟨fun hrev hcount => ?_, fun hrev hcount => ?_⟩
  · rw [exec_encode_lengthMismatch (by rwa [hrev]), hrev]
    rfl
  · rw [exec_encode_lengthMismatch (by rwa [hrev]), hrev]
    rfl

/-- PAYLOAD[k] as DECODE loads it is the little-endian number of its four FRAME bytes (41_codec.md R133, R135). -/
theorem toNat_decodedPayload {s : State} {k : Fin 7} (hk : k.val < payloadCount s.rev) :
    ((decodedPayload s)[k]).toNat = littleNat (s.frameByte (2 + 4 * k.val)) (s.frameByte (3 + 4 * k.val))
      (s.frameByte (4 + 4 * k.val)) (s.frameByte (5 + 4 * k.val)) := by
  rw [getElem_decodedPayload, if_pos hk, State.frameWord, deser32_little_toNat, littleNat]
  simp only [Nat.add_right_comm 2 (4 * k.val), Nat.reduceAdd]

/-- Settles O24: under revision A six elements come from FRAME and the seventh is kept. -/
theorem decodeRevisionALoadsTheMessage : Obligations.DecodeRevisionALoadsTheMessage := by
  intro s h hlen
  refine ⟨_, exec_decode_a h hlen, rfl, fun k hk => toNat_decodedPayload (by rwa [h]), ?_⟩
  have hkept := getElem_decodedPayload s 6
  rwa [h] at hkept

/-- Settles O25: under revision B all seven elements come from FRAME, and the recomputed CRC is the bit-serial one. -/
theorem decodeRevisionBLoadsTheMessage : Obligations.DecodeRevisionBLoadsTheMessage := by
  intro s h hlen
  exact ⟨_, exec_decode_b h hlen (crcCalculate_frameBytes s), rfl,
    fun k => toNat_decodedPayload (by rw [h]; exact k.isLt)⟩

/-- Settles O26: LEN is not L of the revision. -/
theorem decodeOfAWrongLengthIsLengthMismatch : Obligations.DecodeOfAWrongLengthIsLengthMismatch := by
  intro s
  refine ⟨fun hrev hlen => ?_, fun hrev hlen => ?_⟩
  · rw [exec_decode_lengthMismatch (by rw [hrev]; exact fun h => hlen (BitVec.eq_of_toNat_eq h)), hrev]
    rfl
  · rw [exec_decode_lengthMismatch (by rw [hrev]; exact fun h => hlen (BitVec.eq_of_toNat_eq h)), hrev]
    rfl

/-- Settles O29: a count that fails the length check ends with ERR = LENGTH_MISMATCH, and L goes to LEN. -/
theorem successfulEncodeSetsTheFrameLength : Obligations.SuccessfulEncodeSetsTheFrameLength := by
  intro s t count h hok
  obtain hc | hf := exec_cases h
  · cases hc with
    | encode _ _ =>
      change BitVec.ofNat 8 (frameLength s.rev) = _
      cases s.rev <;> rfl
  · cases hf with
    | encode _ _ => cases hok

/-! ### ENCODE, then DECODE -/

/-- The bytes of a word, least significant first, are its digits in base 256. -/
theorem littleNat_byteOf (v : Word) : littleNat (byteOf v 0) (byteOf v 1) (byteOf v 2) (byteOf v 3) = v.toNat := by
  have hv := v.isLt
  simp only [littleNat, byteOf, BitVec.toNat_setWidth, BitVec.toNat_ushiftRight, Nat.shiftRight_eq_div_pow]
  omega

/-- The four message bytes of PAYLOAD[k] are the bytes of that element (41_codec.md R133). -/
theorem littleNat_messageByte (s : State) (k : Fin 7) :
    littleNat (messageByte s (2 + 4 * k.val)) (messageByte s (3 + 4 * k.val)) (messageByte s (4 + 4 * k.val))
      (messageByte s (5 + 4 * k.val)) = (s.payload[k]).toNat := by
  have hbyte (j : Nat) (hj : j < 4) : messageByte s (2 + j + 4 * k.val) = byteOf s.payload[k] j := by
    rw [messageByte, if_neg (by omega), if_neg (by omega), show (2 + j + 4 * k.val - 2) / 4 = k.val by omega,
      show (2 + j + 4 * k.val - 2) % 4 = j by omega]
    simp
  rw [hbyte 0 (by decide), hbyte 1 (by decide), hbyte 2 (by decide), hbyte 3 (by decide), littleNat_byteOf]

/-- Loading TYPEID, CMDTYPE and PAYLOAD[0..n) from a frame that holds the message in those registers keeps them. -/
theorem registers_of_messageBytes {s t u : State} {n : Nat} (htypeId : t.typeId = s.typeId)
    (hcmdType : t.cmdType = s.cmdType) (hpayload : t.payload = s.payload)
    (hbytes : ∀ i < 2 + 4 * n, t.frameByte i = messageByte s i)
    (hu0 : u.typeId = t.frameByte 0) (hu1 : u.cmdType = t.frameByte 1)
    (hu : ∀ k : Fin 7, k.val < n → (u.payload[k]).toNat = littleNat (t.frameByte (2 + 4 * k.val))
      (t.frameByte (3 + 4 * k.val)) (t.frameByte (4 + 4 * k.val)) (t.frameByte (5 + 4 * k.val))) :
    u.typeId = t.typeId ∧ u.cmdType = t.cmdType ∧ ∀ k : Fin 7, k.val < n → u.payload[k] = t.payload[k] := by
  rw [htypeId, hcmdType, hpayload]
  refine ⟨hu0.trans (hbytes 0 (by omega)), hu1.trans (hbytes 1 (by omega)), fun k hk => BitVec.eq_of_toNat_eq ?_⟩
  rw [hu k hk, hbytes _ (by omega), hbytes _ (by omega), hbytes _ (by omega), hbytes _ (by omega),
    littleNat_messageByte]

theorem frameCrc_of_messageBytes {s t : State} (hparams : t.params = s.params)
    (hbytes : ∀ i < 30, t.frameByte i = messageByte s i) : frameCrc t = messageCrc s := by
  have hmap : (List.range 30).map t.frameByte = (List.range 30).map (messageByte s) :=
    List.map_congr_left fun i hi => hbytes i (List.mem_range.1 hi)
  rw [frameCrc, messageCrc, hmap, hparams]

/-- Settles O27: DECODE loads the registers from the bytes that ENCODE laid out from them. -/
theorem encodeThenDecodeRestoresTheMessage : Obligations.EncodeThenDecodeRestoresTheMessage := by
  rintro s n rfl
  cases hrev : s.rev with
  | a =>
    obtain ⟨t, ht, hencoded, hbytes, htrailer, -⟩ := encodeRevisionALaysOutTheFrame s hrev
    obtain ⟨u, hu, hdecoded, hloaded, -⟩ :=
      decodeRevisionALoadsTheMessage t ((congrArg State.rev hencoded).trans hrev) (congrArg State.len hencoded)
    obtain ⟨htypeId, hcmdType, hpayload⟩ := registers_of_messageBytes (n := 6) (by rw [hencoded]) (by rw [hencoded])
      (by rw [hencoded]) hbytes (congrArg State.typeId hdecoded) (congrArg State.cmdType hdecoded) hloaded
    have hcheck : u.check = s.check := (congrArg State.check hdecoded).trans htrailer
    exact ⟨t, u, ht, hu, htypeId, hcmdType, hcheck.trans (congrArg State.check hencoded).symm, hpayload,
      congrArg State.err hdecoded, nofun, fun _ => hcheck⟩
  | b =>
    obtain ⟨t, ht, hencoded, hbytes, htrailer, -⟩ := encodeRevisionBLaysOutTheFrame s hrev
    obtain ⟨u, hu, hdecoded, hloaded⟩ :=
      decodeRevisionBLoadsTheMessage t ((congrArg State.rev hencoded).trans hrev) (congrArg State.len hencoded)
    obtain ⟨htypeId, hcmdType, hpayload⟩ := registers_of_messageBytes (n := 7) (by rw [hencoded]) (by rw [hencoded])
      (by rw [hencoded]) hbytes (congrArg State.typeId hdecoded) (congrArg State.cmdType hdecoded) fun k _ => hloaded k
    have hcheck : u.check = messageCrc s := (congrArg State.check hdecoded).trans htrailer
    have hcrc : frameCrc t = messageCrc s := frameCrc_of_messageBytes (by rw [hencoded]) hbytes
    have hmatch : ¬ frameCrc t ≠ t.frameByte 30 := not_not.2 (hcrc.trans htrailer.symm)
    exact ⟨t, u, ht, hu, htypeId, hcmdType, hcheck.trans (congrArg State.check hencoded).symm, hpayload,
      congrArg State.err hdecoded,
      fun _ => ⟨(congrArg State.crcMis hdecoded).trans (decide_eq_false hmatch),
        (congrArg State.calcCrc hdecoded).trans (hcrc.trans hcheck.symm)⟩, nofun⟩

/-! ### A flipped bit of the frame (41_codec.md R141) -/

/-- Flipping a bit of FRAME[i] flips that bit of the byte sequence from FRAME[0], if the sequence reaches it. -/
theorem frameBytes_flip (s : State) (i j n : Nat) :
    (s.writeFrame i [s.frameByte i ^^^ (1#8 <<< j)]).frameBytes 0 n = flipBit (s.frameBytes 0 n) i j := by
  refine List.ext_getElem (by simp [flipBit]) fun k hk _ => ?_
  simp only [frameBytes_from_zero, flipBit, List.getElem_map, List.getElem_range, List.getElem_modify,
    State.frameByte_writeFrame, List.length_singleton]
  by_cases h : i = k
  · subst h
    simp
  · rw [dif_neg (by omega), if_neg h]

theorem bit_ne_zero : ∀ j < 8, 1#8 <<< j ≠ 0#8 := by decide

/-- A frame that carries its CRC no longer does after the flip of any one bit. -/
theorem frameCrc_flip_ne {s : State} {i j : Nat} (hpoly : s.params.poly ≠ 0x00#8) (hcrc : frameCrc s = s.frameByte 30)
    (hi : i < 31) (hj : j < 8) : frameCrc (s.writeFrame i [s.frameByte i ^^^ (1#8 <<< j)]) ≠
      (s.writeFrame i [s.frameByte i ^^^ (1#8 <<< j)]).frameByte 30 := by
  rw [← crcCalculate_frameBytes, State.writeFrame_params, frameBytes_flip, State.frameByte_writeFrame]
  rw [← crcCalculate_frameBytes] at hcrc
  obtain hbody | rfl : i < 30 ∨ i = 30 := by omega
  · rw [dif_neg (by simp; omega), ← hcrc]
    exact singleBitFlipChangesTheChecksum s.params _ i j hpoly (by simpa using hbody) hj
  · have hsame : flipBit (s.frameBytes 0 30) 30 j = s.frameBytes 0 30 :=
      List.modify_eq_self (by rw [State.frameBytes_length])
    rw [hsame, hcrc, dif_pos (by simp)]
    exact fun h => bit_ne_zero j hj ((BitVec.xor_right_inj (s.frameByte 30)).1 (h.symm.trans BitVec.xor_zero.symm))

/-- Settles O28: the encoded frame carries its CRC, and a flip in the body changes the CRC, one in the trailing byte the
byte it is compared with. -/
theorem flippedFrameBitSetsCrcMis : Obligations.FlippedFrameBitSetsCrcMis := by
  intro s i j hrev hpoly hi hj
  obtain ⟨t, ht, hencoded, hbytes, htrailer, -⟩ := encodeRevisionBLaysOutTheFrame s hrev
  have hparams : t.params = s.params := by rw [hencoded]
  have hcrc : frameCrc t = t.frameByte 30 := (frameCrc_of_messageBytes hparams hbytes).trans htrailer.symm
  obtain ⟨u, hu, hdecoded, -⟩ := decodeRevisionBLoadsTheMessage (t.writeFrame i [t.frameByte i ^^^ (1#8 <<< j)])
    ((congrArg State.rev hencoded).trans hrev) (congrArg State.len hencoded)
  have hmismatch := frameCrc_flip_ne (by rwa [hparams]) hcrc hi hj
  exact ⟨t, u, ht, hu, (congrArg State.crcMis hdecoded).trans (decide_eq_true hmismatch),
    congrArg State.err hdecoded⟩

/-! ### The other revision (41_codec.md R139) -/

/-- Settles O30: LEN after ENCODE is the frame length of one revision, and so not that of the other. -/
theorem frameOfTheOtherRevisionIsRefused : Obligations.FrameOfTheOtherRevisionIsRefused := by
  rintro s n rfl
  cases hrev : s.rev with
  | a =>
    obtain ⟨t, ht, hencoded, -⟩ := encodeRevisionALaysOutTheFrame s hrev
    have hlen : t.len = 27#8 := congrArg State.len hencoded
    obtain ⟨-, hrefused⟩ := decodeOfAWrongLengthIsLengthMismatch { t with rev := .b }
    exact ⟨t, _, ht, hrefused rfl (by simp [hlen]), rfl, rfl, rfl⟩
  | b =>
    obtain ⟨t, ht, hencoded, -⟩ := encodeRevisionBLaysOutTheFrame s hrev
    have hlen : t.len = 31#8 := congrArg State.len hencoded
    obtain ⟨hrefused, -⟩ := decodeOfAWrongLengthIsLengthMismatch { t with rev := .a }
    exact ⟨t, _, ht, hrefused rfl (by simp [hlen]), rfl, rfl, rfl⟩

end Sys2Proof.Safety

/-! The packer family (42_packer.md): the serializer's laws, PACK.W and UNPACK.W as one equation per outcome, and the
bytes they move between PAYLOAD and FRAME. -/

namespace Sys2Proof.Machine

/-! ### The serializer (42_packer.md R161, R162) -/

/-- Big-endian serialization is the little-endian one reversed (42_packer.md R166). -/
theorem ser32_big (v : Word) : ser32 v .big = (ser32 v .little).reverse := rfl

theorem deser32_big (b0 b1 b2 b3 : Byte) : deser32 b0 b1 b2 b3 .big = deser32 b3 b2 b1 b0 .little := rfl

/-- The byte of a word that stands at place j of its serialization. -/
def serialPlace (e : ByteOrder) (j : Nat) : Nat :=
  match e with
  | .little => j
  | .big => 3 - j

theorem getElem_ser32 (v : Word) (e : ByteOrder) {j : Nat} (hj : j < 4) :
    (ser32 v e)[j]'(by simpa using hj) = wordByte v (serialPlace e j) := by
  cases e <;> interval_cases j <;> rfl

theorem toNat_wordByte (v : Word) (j : Nat) : (wordByte v j).toNat = v.toNat / 2 ^ (8 * j) % 256 := by
  rw [wordByte, BitVec.extractLsb'_toNat, Nat.shiftRight_eq_div_pow]

/-- The bytes of a word deserialize to the word: they are its digits in base 256. -/
theorem deser32_wordByte (v : Word) :
    deser32 (wordByte v 0) (wordByte v 1) (wordByte v 2) (wordByte v 3) .little = v := by
  apply BitVec.eq_of_toNat_eq
  rw [deser32_little_toNat]
  simpa only [Safety.byteOf_eq_wordByte, Safety.littleNat] using Safety.littleNat_byteOf v

/-- Four bytes come back from the word they deserialize to: base 256 digits are unique. -/
theorem ser32_deser32_little (b0 b1 b2 b3 : Byte) :
    ser32 (deser32 b0 b1 b2 b3 .little) .little = [b0, b1, b2, b3] := by
  have h0 := b0.isLt
  have h1 := b1.isLt
  have h2 := b2.isLt
  have h3 := b3.isLt
  simp only [ser32, List.cons.injEq, and_true, ← BitVec.toNat_inj, toNat_wordByte, deser32_little_toNat]
  omega

/-- Deserialization undoes serialization in the same order. -/
theorem exists_ser32_eq (v : Word) (e : ByteOrder) :
    ∃ b0 b1 b2 b3, ser32 v e = [b0, b1, b2, b3] ∧ deser32 b0 b1 b2 b3 e = v := by
  cases e with
  | little => exact ⟨_, _, _, _, rfl, deser32_wordByte v⟩
  | big => exact ⟨_, _, _, _, rfl, deser32_wordByte v⟩

/-- Serialization undoes deserialization in the same order. -/
theorem ser32_deser32 (b0 b1 b2 b3 : Byte) (e : ByteOrder) : ser32 (deser32 b0 b1 b2 b3 e) e = [b0, b1, b2, b3] := by
  cases e with
  | little => exact ser32_deser32_little b0 b1 b2 b3
  | big => rw [deser32_big, ser32_big, ser32_deser32_little]; rfl

/-- The word read where a word was serialized, in the same order, is that word. -/
theorem State.frameWord_writeFrame_ser32 (s : State) (off : Nat) (v : Word) (e : ByteOrder) :
    (s.writeFrame off (ser32 v e)).frameWord off e = v := by
  obtain ⟨b0, b1, b2, b3, hser, hdeser⟩ := exists_ser32_eq v e
  rw [hser, ← hdeser]
  simp [State.frameWord, State.frameByte_writeFrame]

/-! ### PACK.W and UNPACK.W (42_packer.md R164, R165) -/

theorem exec_packW_of_range (k : Fin 7) {off : Nat} (h : off + 4 ≤ 32) (e : ByteOrder) (s : State) :
    exec (.packW k.val off e) s = .next { s.writeFrame off (ser32 s.payload[k] e) with err := .ok } :=
  dif_pos ⟨k.isLt, h⟩

theorem exec_packW_rangeError {k off : Nat} (h : 6 < k ∨ 32 < off + 4) (e : ByteOrder) (s : State) :
    exec (.packW k off e) s = .next { s with err := .rangeError } :=
  dif_neg fun hok => (Safety.packOperandsOk_iff k off).1 hok h

theorem exec_unpackW_of_range (k : Fin 7) {off : Nat} (h : off + 4 ≤ 32) (e : ByteOrder) (s : State) :
    exec (.unpackW k.val off e) s = .next { s with payload := s.payload.set k (s.frameWord off e), err := .ok } :=
  dif_pos ⟨k.isLt, h⟩

theorem exec_unpackW_rangeError {k off : Nat} (h : 6 < k ∨ 32 < off + 4) (e : ByteOrder) (s : State) :
    exec (.unpackW k off e) s = .next { s with err := .rangeError } :=
  dif_neg fun hok => (Safety.packOperandsOk_iff k off).1 hok h

end Sys2Proof.Machine

namespace Sys2Proof.Safety

open Sys2Proof.Machine

/-- Settles O32: the word that UNPACK.W reads is the one PACK.W wrote, so PAYLOAD[k] is set to itself. -/
theorem serializerLaws : Obligations.SerializerLaws := by
  refine ⟨exists_ser32_eq, ser32_deser32, ser32_big, fun s k off e hk hoff => ?_⟩
  obtain ⟨k, rfl⟩ : ∃ i : Fin 7, k = i.val := ⟨⟨k, Nat.lt_succ_of_le hk⟩, rfl⟩
  refine ⟨_, _, exec_packW_of_range k hoff e s, exec_unpackW_of_range k hoff e _, ?_⟩
  calc s.payload.set k ((s.writeFrame off (ser32 s.payload[k] e)).frameWord off e)
    _ = s.payload.set k s.payload[k] := by rw [State.frameWord_writeFrame_ser32]
    _ = s.payload := Vector.set_getElem_self k.isLt

/-- The frame's message bytes at FRAME[2+4k..6+4k) are those of PAYLOAD[k] (41_codec.md R133). -/
theorem messageByte_payload (s : State) (k : Fin 7) {j : Nat} (hj : j < 4) :
    messageByte s (2 + 4 * k.val + j) = byteOf s.payload[k] j := by
  have hindex : (2 + 4 * k.val + j - 2) / 4 = k.val := by omega
  have hbyte : (2 + 4 * k.val + j - 2) % 4 = j := by omega
  rw [messageByte, if_neg (by omega), if_neg (by omega), hindex, hbyte]
  simp

/-- ENCODE with the count of the revision lays out the message's bytes, under either revision. -/
theorem exec_encode_messageBytes (s : State) {n : Nat} (hn : n = payloadCount s.rev) :
    ∃ t, exec (.encode n) s = .next t ∧ ∀ i < 2 + 4 * n, t.frameByte i = messageByte s i := by
  subst hn
  cases hrev : s.rev with
  | a =>
    obtain ⟨t, ht, -, hbytes, -⟩ := encodeRevisionALaysOutTheFrame s hrev
    exact ⟨t, ht, hbytes⟩
  | b =>
    obtain ⟨t, ht, -, hbytes, -⟩ := encodeRevisionBLaysOutTheFrame s hrev
    exact ⟨t, ht, hbytes⟩

/-- The bytes at the place where a word was serialized. -/
theorem frameByte_writeFrame_ser32 (s : State) (off : Nat) (v : Word) (e : ByteOrder) {j : Nat} (hj : j < 4) :
    (s.writeFrame off (ser32 v e)).frameByte (off + j) = byteOf v (serialPlace e j) := by
  rw [State.frameByte_writeFrame, dif_pos (by simpa using hj), byteOf_eq_wordByte, ← getElem_ser32 v e hj]
  simp only [Nat.add_sub_cancel_left]

/-- Settles O33: PACK.W is a FRAME write of the serialized element, and ENCODE's message bytes are the same bytes. -/
theorem packWritesFourBytes : Obligations.PackWritesFourBytes := by
  refine ⟨fun w => matchesRow_iff_decodeWord w .packW, fun s n k hn hk => ?_, fun s k off e hoff => ?_,
    fun s k off e h => exec_packW_rangeError h e s⟩
  · have hn7 : n ≤ 7 := hn ▸ payloadCount_le s.rev
    obtain ⟨t, ht, hbytes⟩ := exec_encode_messageBytes s hn
    obtain ⟨k, rfl⟩ : ∃ i : Fin 7, k = i.val := ⟨⟨k, by omega⟩, rfl⟩
    refine ⟨t, _, ht, exec_packW_of_range k (by omega) .little s, fun j hj => ?_⟩
    rw [hbytes _ (by omega), messageByte_payload s k hj]
    exact (frameByte_writeFrame_ser32 s (2 + 4 * k.val) s.payload[k] .little hj).symm
  · exact ⟨_, exec_packW_of_range k hoff e s, rfl,
      fun j hj => frameByte_writeFrame_ser32 s off s.payload[k] e hj,
      ser32_length s.payload[k] e ▸ sameBytesOutside_writeFrame s off (ser32 s.payload[k] e)⟩

/-- Settles O34: UNPACK.W sets PAYLOAD[k] to the number of the four bytes, and another element is not set. -/
theorem unpackLoadsFourBytes : Obligations.UnpackLoadsFourBytes := by
  refine ⟨fun w => matchesRow_iff_decodeWord w .unpackW, fun s k off e hoff => ?_,
    fun s k off e h => exec_unpackW_rangeError h e s⟩
  refine ⟨_, exec_unpackW_of_range k hoff e s, rfl, ?_, fun k' hk' => ?_⟩
  · have hloaded : (s.payload.set k (s.frameWord off e))[k] = s.frameWord off e := by simp
    rw [hloaded]
    cases e with
    | little => exact deser32_little_toNat _ _ _ _
    | big => exact deser32_little_toNat _ _ _ _
  · exact Vector.getElem_set_ne k.isLt k'.isLt fun h => hk' (Fin.ext h.symm)

end Sys2Proof.Safety

/-! The exceptions family (60_exceptions.md): the result code every command leaves in STATUS.ERR, what RANGE_ERROR
writes, and words that select no command. -/

namespace Sys2Proof.Safety

open Sys2Proof.Machine

/-! ### Result codes (60_exceptions.md R181, R187) -/

/-- A result code depends on CONFIG.REV and LEN alone: on no FRAME byte, and not on STATUS.ERR. -/
theorem resultCode_congr (i : Instr) {s t : State} (hrev : t.rev = s.rev) (hlen : t.len = s.len) :
    resultCode i t = resultCode i s := by
  unfold resultCode
  rw [hrev, hlen]

theorem err_of_completes {s t : State} {i : Instr} (h : Completes s i t) : t.err = .ok := by
  cases h <;> rfl

/-- A failed command leaves the code of its condition. -/
theorem err_of_fails {s t : State} {i : Instr} (h : Fails s i t) : t.err = resultCode i s := by
  cases h with
  | crcUpdf _ _ hr => exact (if_pos hr).symm
  | crcCalc _ _ hr => exact (if_pos hr).symm
  | encode _ hc => exact ((resultCode_encode _ s).trans (if_neg hc)).symm
  | decode hl => exact ((resultCode_decode s).trans (if_neg hl)).symm
  | packW k off _ hp => exact (if_pos (not_not.1 (mt (packOperandsOk_iff k off).2 hp))).symm
  | unpackW k off _ hp => exact (if_pos (not_not.1 (mt (packOperandsOk_iff k off).2 hp))).symm

/-- Every command that answers leaves its own result code in STATUS.ERR. -/
theorem err_of_exec {s t : State} {i : Instr} (h : exec i s = .next t) : t.err = resultCode i s := by
  obtain hc | hf := exec_cases h
  · exact (err_of_completes hc).trans (resultCode_of_completes hc).symm
  · exact err_of_fails hf

/-! ### RANGE_ERROR (60_exceptions.md R184) -/

/-- A command whose bounds give RANGE_ERROR sets STATUS.ERR and nothing else. -/
theorem exec_of_rangeError {i : Instr} {s : State} (h : resultCode i s = .rangeError) :
    exec i s = .next { s with err := .rangeError } := by
  obtain ⟨t, ht⟩ := exec_completes i s
  have herr : t.err = .rangeError := (err_of_exec ht).trans h
  have hfail : Fails s i t := (exec_cases ht).resolve_left fun hc => nomatch (err_of_completes hc).symm.trans herr
  obtain rfl | ⟨exp, act, rfl⟩ := fails_frame hfail
  · exact ht
  · exact nomatch herr

/-- The commands that have bounds. -/
theorem opcodeOf_of_rangeError {i : Instr} {s : State} (h : resultCode i s = .rangeError) :
    opcodeOf i = .crcUpdf ∨ opcodeOf i = .crcCalc ∨ opcodeOf i = .packW ∨ opcodeOf i = .unpackW := by
  cases i with
  | crcUpdf => exact .inl rfl
  | crcCalc => exact .inr (.inl rfl)
  | packW => exact .inr (.inr (.inl rfl))
  | unpackW => exact .inr (.inr (.inr rfl))
  | nop | crcInit | crcUpd8 | crcFin => cases h
  | encode count =>
    rw [resultCode_encode] at h
    split at h <;> cases h
  | decode =>
    rw [resultCode_decode] at h
    split at h <;> cases h

/-- Settles O35: the code does not depend on FRAME, and it is the code that exec leaves in ERR. -/
theorem rangeErrorSetsErrAlone : Obligations.RangeErrorSetsErrAlone := by
  refine ⟨fun i s hcode m => exec_of_rangeError ((resultCode_congr i rfl rfl).trans hcode), fun i s t h herr => ?_⟩
  have hcode : resultCode i s = .rangeError := (err_of_exec h).symm.trans herr
  exact ⟨hcode, opcodeOf_of_rangeError hcode⟩

/-! ### Words that select no command (60_exceptions.md R183) -/

/-- Settles O5: a word that matches no row does not decode, so its CMD write raises ILLEGAL_COMMAND. -/
theorem illegalWordIsStoredAndReported : Obligations.IllegalWordIsStoredAndReported := by
  intro s w hno
  cases hw : decodeWord w with
  | error r => exact perform_cmdWrite_of_error hw s
  | ok i =>
    obtain ⟨op, hm, -⟩ := decodeWord_eq_ok.1 hw
    exact absurd hm (hno op)

/-! ### No command reads STATUS.ERR (60_exceptions.md R181) -/

theorem encodeFrame_setErr (s : State) (e : ErrCode) : encodeFrame (s.setErr e) = encodeFrame s := by
  cases h : s.rev with
  | a =>
    rw [encodeFrame_a h, encodeFrame_a (s := s.setErr e) h]
    rfl
  | b =>
    rw [encodeFrame_b h rfl, encodeFrame_b (s := s.setErr e) h rfl]
    rfl

/-- Every arm of `exec` writes ERR and reads it nowhere; ENCODE's trailing byte hangs on REV, so ENCODE goes by
`encodeFrame_setErr`. -/
theorem exec_setErr (i : Instr) (s : State) (e : ErrCode) : exec i (s.setErr e) = exec i s := by
  cases i with
  | nop | crcInit | crcUpd8 | crcUpdf | crcFin | crcCalc | decode | packW | unpackW => rfl
  | encode count =>
    change execEncode count (s.setErr e) = execEncode count s
    by_cases h : count = payloadCount s.rev
    · rw [execEncode_of_count h, execEncode_of_count (s := s.setErr e) h]
      exact congrArg Host.Outcome.next (encodeFrame_setErr (s.recordLengths _ _) e)
    · rw [execEncode_of_wrong_count h, execEncode_of_wrong_count (s := s.setErr e) h]
      rfl

/-- A CMD write of a word that decodes stores the word and runs the command (10_state.md R20). -/
theorem perform_cmdWrite_of_ok {w : Word} {i : Instr} (h : decodeWord w = .ok i) (s : State) :
    perform s (cmdWrite w) = exec i { s with cmd := w } :=
  stepRunsTheDecodedCommand _ w s.pending i rfl h

/-- Settles O36: a CMD write runs its command on a state with the same REV and LEN, or raises ILLEGAL_COMMAND. -/
theorem everyCommandWritesItsResultCode : Obligations.EveryCommandWritesItsResultCode := by
  refine ⟨fun i s => ⟨?_, exec_setErr i s⟩, fun s w => ?_⟩
  · obtain ⟨t, ht⟩ := exec_completes i s
    exact ⟨t, ht, err_of_exec ht⟩
  · cases hw : decodeWord w with
    | ok i =>
      obtain ⟨t, ht⟩ := exec_completes i { s with cmd := w }
      refine ⟨t, (perform_cmdWrite_of_ok hw s).trans ht, (err_of_exec ht).trans (resultCode_congr i rfl rfl),
        fun e => ?_⟩
      calc perform { s with err := e } (cmdWrite w) = exec i ({ s with cmd := w }.setErr e) :=
            perform_cmdWrite_of_ok hw _
        _ = exec i { s with cmd := w } := exec_setErr i _ e
        _ = .next t := ht
    | error r => exact ⟨_, perform_cmdWrite_of_error hw s, rfl, fun e => perform_cmdWrite_of_error hw _⟩

end Sys2Proof.Safety

/-! The reset and hazards family (70_reset_and_hazards.md): the reset values, and commands beside the free values of
unwritten FRAME bytes. -/

namespace Sys2Proof.Safety

open Sys2Proof.Machine

/-! ### The answer of a command by its effect -/

theorem exec_of_completes {s t : State} {i : Instr} (h : Completes s i t) : exec i s = .next t := by
  cases h with
  | nop | crcInit | crcUpd8 | crcFin => rfl
  | crcUpdf _ _ hr => exact exec_crcUpdf_of_range hr s
  | crcCalc _ _ hr _ hc => exact exec_crcCalc_of_range hr s hc.symm
  | encode _ hc => exact execEncode_of_count hc
  | decode hl => exact execDecode_of_length hl
  | packW _ _ e hp => exact exec_packW_of_range ⟨_, hp.1⟩ hp.2 e s
  | unpackW _ _ e hp => exact exec_unpackW_of_range ⟨_, hp.1⟩ hp.2 e s

theorem exec_of_fails {s t : State} {i : Instr} (h : Fails s i t) : exec i s = .next t := by
  cases h with
  | crcUpdf _ _ hr => exact exec_crcUpdf_rangeError hr s
  | crcCalc _ _ hr => exact exec_crcCalc_rangeError hr s
  | encode _ hc => exact execEncode_of_wrong_count hc
  | decode hl => exact execDecode_of_wrong_length hl
  | packW _ _ _ hp => exact dif_neg hp
  | unpackW _ _ _ hp => exact dif_neg hp

/-! ### Reads of FRAME in another reset epoch (70_reset_and_hazards.md R210, R212) -/

/-- The state in another reset epoch: every unwritten FRAME byte draws another free value (log 3, log 4). -/
def withEpoch (s : State) (e : Nat) : State := { s with epoch := e }

/-- FRAME[i] was written since reset. -/
abbrev frameWritten (s : State) (i : Nat) : Prop := Memory.written s.frame (frameBase + i) ≠ none

/-- A written byte reads as the byte written, whatever the free values are. -/
theorem frameByte_withEpoch {s : State} {i : Nat} (h : frameWritten s i) (e : Nat) :
    (withEpoch s e).frameByte i = s.frameByte i := by
  obtain ⟨v, hv⟩ := Option.ne_none_iff_exists'.1 h
  simp only [State.frameByte, Memory.read, withEpoch, hv]

theorem frameBytes_withEpoch {s : State} {start count : Nat}
    (h : ∀ b ∈ (List.range count).map (start + ·), frameWritten s b) (e : Nat) :
    (withEpoch s e).frameBytes start count = s.frameBytes start count :=
  List.map_congr_left fun _ hj => frameByte_withEpoch (h _ (List.mem_map_of_mem hj)) e

theorem frameWord_withEpoch {s : State} {off : Nat} (h : ∀ j < 4, frameWritten s (off + j)) (e : Nat) (o : ByteOrder) :
    (withEpoch s e).frameWord off o = s.frameWord off o := by
  unfold State.frameWord
  rw [frameByte_withEpoch (i := off) (h 0 (by decide)) e, frameByte_withEpoch (h 1 (by decide)) e,
    frameByte_withEpoch (h 2 (by decide)) e, frameByte_withEpoch (h 3 (by decide)) e]

/-! ### The codec in another reset epoch -/

/-- ENCODE takes its CRC over the body it has just laid out, so it needs no byte written before. -/
theorem encodeFrame_withEpoch (s : State) (e : Nat) : encodeFrame (withEpoch s e) = withEpoch (encodeFrame s) e := by
  cases h : s.rev with
  | a =>
    rw [encodeFrame_a h, encodeFrame_a (s := withEpoch s e) h]
    rfl
  | b =>
    rw [encodeFrame_b h rfl, encodeFrame_b (s := withEpoch s e) h rfl]
    rfl

theorem decodedPayload_withEpoch {s : State} (h : ∀ i < frameLength s.rev, frameWritten s i) (e : Nat) :
    decodedPayload (withEpoch s e) = decodedPayload s := by
  have hlength := frameLength_eq s.rev
  refine congrArg Vector.ofFn (funext fun k => if_ctx_congr Iff.rfl (fun hk => ?_) fun _ => rfl)
  have hcount : k.val < payloadCount s.rev := hk
  exact frameWord_withEpoch (fun j hj => h _ (by unfold payloadOffset; omega)) e _

theorem decodeFrame_withEpoch {s : State} (h : ∀ i < frameLength s.rev, frameWritten s i) (e : Nat) :
    decodeFrame (withEpoch s e) = withEpoch (decodeFrame s) e := by
  have hpayload := decodedPayload_withEpoch h e
  cases hrev : s.rev with
  | a =>
    rw [hrev, frameLength_a] at h
    rw [decodeFrame_a hrev, decodeFrame_a (s := withEpoch s e) hrev, hpayload, frameByte_withEpoch (h 0 (by decide)) e,
      frameByte_withEpoch (h 1 (by decide)) e, frameByte_withEpoch (h 26 (by decide)) e]
    rfl
  | b =>
    rw [hrev, frameLength_b] at h
    have hbytes : (withEpoch s e).frameBytes 0 30 = s.frameBytes 0 30 :=
      frameBytes_withEpoch (fun b hb => h b (by simp at hb; omega)) e
    rw [decodeFrame_b hrev rfl, decodeFrame_b (s := withEpoch s e) hrev (congrArg _ hbytes), hpayload,
      frameByte_withEpoch (h 0 (by decide)) e, frameByte_withEpoch (h 1 (by decide)) e,
      frameByte_withEpoch (h 30 (by decide)) e]
    rfl

/-! ### Commands in another reset epoch -/

/-- A command error is found by the operands, CONFIG.REV and LEN alone, no FRAME byte among them. -/
theorem fails_withEpoch {s t : State} {i : Instr} (h : Fails s i t) (e : Nat) :
    Fails (withEpoch s e) i (withEpoch t e) := by
  cases h with
  | crcUpdf _ _ hr => exact .crcUpdf _ _ hr
  | crcCalc _ _ hr => exact .crcCalc _ _ hr
  | packW _ _ _ hp => exact .packW _ _ _ hp
  | unpackW _ _ _ hp => exact .unpackW _ _ _ hp
  | encode _ hc => exact .encode _ hc
  | decode hl => exact .decode hl

theorem framesRead_decode {s : State} (h : resultCode .decode s = .ok) :
    framesRead .decode s = List.range (frameLength s.rev) := by
  refine (if_pos h).trans ?_
  cases s.rev <;> rfl

/-- A command that completes has the same effect in another epoch, where the FRAME bytes that it reads are written. -/
theorem completes_withEpoch {s t : State} {i : Instr} (h : Completes s i t) (e : Nat)
    (hwritten : ∀ b ∈ framesRead i s, frameWritten s b) : Completes (withEpoch s e) i (withEpoch t e) := by
  have hcode := resultCode_of_completes h
  cases h with
  | nop => exact .nop
  | crcInit => exact .crcInit
  | crcUpd8 d => exact .crcUpd8 d
  | crcFin => exact .crcFin
  | crcUpdf start count hr =>
    have hread : framesRead (.crcUpdf start count) s = (List.range count).map (start + ·) := if_pos hcode
    have hbytes := frameBytes_withEpoch (hread ▸ hwritten) e
    rw [← hbytes]
    exact .crcUpdf start count hr
  | crcCalc start count hr c hc =>
    have hread : framesRead (.crcCalc start count) s = (List.range count).map (start + ·) := if_pos hcode
    have hbytes := frameBytes_withEpoch (hread ▸ hwritten) e
    exact .crcCalc start count hr c (hc.trans (congrArg _ hbytes.symm))
  | encode count hc =>
    rw [← encodeFrame_withEpoch]
    exact .encode count hc
  | decode hl =>
    rw [framesRead_decode hcode] at hwritten
    rw [← decodeFrame_withEpoch (s := s.recordLengths _ _) fun i hi => hwritten i (List.mem_range.2 hi)]
    exact .decode hl
  | packW k off o hp => exact .packW k off o hp
  | unpackW k off o hp =>
    have hread : framesRead (.unpackW k off o) s = (List.range 4).map (off + ·) := if_pos hcode
    have hword := frameWord_withEpoch (s := s) (off := off) (by simpa [hread] using hwritten) e o
    rw [← hword]
    exact .unpackW k off o hp

/-- Settles O56: the answer of exec is a completion or a failure, and both commute with a change of the epoch. -/
theorem writtenBytesDetermineTheOutcome : Obligations.WrittenBytesDetermineTheOutcome := by
  intro i s e hwritten
  obtain ⟨t, ht⟩ := exec_completes i s
  rw [ht, mapNext_next]
  obtain hc | hf := exec_cases ht
  · exact exec_of_completes (completes_withEpoch hc e hwritten)
  · exact exec_of_fails (fails_withEpoch hf e)

/-! ### The reset values (70_reset_and_hazards.md R210) -/

/-- Settles O49: a reset event is performed as `State.resetEvent`, whose FRAME is the empty storage. -/
theorem resetEventRestoresTheTable : Obligations.ResetEventRestoresTheTable := fun s =>
  ⟨s.resetEvent, perform_eq s .reset, rfl, fun _ => rfl⟩

/-- Settles O50: `State.reset` is `State.resetWith` of the default parameters, field by field. -/
theorem resetStateHoldsTheResetValues : Obligations.ResetStateHoldsTheResetValues :=
  ⟨rfl, rfl, rfl, rfl, rfl, rfl, rfl, rfl, rfl, rfl, rfl, rfl, rfl, rfl, fun _ => rfl⟩

/-- Settles O53: the empty storage has no offsets to order and none outside FRAME. -/
theorem resetStateMeetsTheInvariant : Obligations.ResetStateMeetsTheInvariant :=
  ⟨List.Pairwise.nil, List.forall_mem_nil _⟩

end Sys2Proof.Safety
